-- ==== Sys2Proof/Word.lean ====
section
/-! DEFINITION. The word types of chip8_cpu_top: the widths of the spec's values and nothing else.
All values are unsigned (R7 of `00_scope.md`). -/

namespace Sys2Proof

/-- A byte of memory, a general register, a timer, an 8-bit literal `kk` (R21, R28, R60, R92). -/
abbrev Byte := BitVec 8

/-- A 16-bit word: an instruction, `PC`, `I`, `IR`, a stack slot (R23, R24, R25, R26, R90). -/
abbrev Word := BitVec 16

/-- A register index: a 4-bit instruction field, always in range (R21). -/
abbrev RegIdx := BitVec 4

/-- A key index 0 to 15 (R31). -/
abbrev KeyIdx := BitVec 4

/-- The 12-bit address field `nnn` (R92). -/
abbrev Addr12 := BitVec 12

/-- The 4-bit sprite height field `n` (R92). -/
abbrev Height := BitVec 4

end Sys2Proof
end

