-- ==== Sys2Proof/Decode.lean ====
section
/-! DEFINITION. The decoder of R95 of `30_encoding.md`, a total function that rejects by name, and the
encoder written from the formats of R91. Byte order: the byte at the lower address is the high byte
(R67 of `20_memory.md`). -/

namespace Sys2Proof

/-! ## Fields (R11) -/

/-- `op = w[15:12]`. -/
def opOf (w : Word) : BitVec 4 := w.extractLsb' 12 4

/-- `x = w[11:8]`. -/
def xOf (w : Word) : RegIdx := w.extractLsb' 8 4

/-- `y = w[7:4]`. -/
def yOf (w : Word) : RegIdx := w.extractLsb' 4 4

/-- `n = w[3:0]`. -/
def nOf (w : Word) : BitVec 4 := w.extractLsb' 0 4

/-- `kk = w[7:0]`. -/
def kkOf (w : Word) : Byte := w.extractLsb' 0 8

/-- `nnn = w[11:0]`. -/
def nnnOf (w : Word) : Addr12 := w.extractLsb' 0 12

/-! ## Bytes and words (R67, R90) -/

/-- The word of two bytes, the first (lower address) in the high bits (R67). -/
def wordOfBytes (hi lo : Byte) : Word := hi ++ lo

/-- The two bytes of a word in address order, high byte first (R67). -/
def bytesOfWord (w : Word) : List Byte := [w.extractLsb' 8 8, w.extractLsb' 0 8]

/-! ## Decoding -/

/-- Why bytes are no instruction. -/
inductive DecodeError where
  /-- The word is one of the illegal words of R97 (`Unknown` of R95). -/
  | unknownOpcode (w : Word)
  /-- Fewer than two bytes: every instruction has exactly two (R90). -/
  | truncated
  deriving DecidableEq, Repr

/-- Group 0 (R98): the two FIXED words first, every other word is SYS. -/
def decodeGroup0 (w : Word) : Except DecodeError Instr :=
  if w = 0x00E0 then .ok .cls
  else if w = 0x00EE then .ok .ret
  else .ok (.sys (nnnOf w))

/-- Group 8, keyed by the low nibble (R94, R95). -/
def decodeGroup8 (w : Word) : Except DecodeError Instr :=
  match (nOf w).toNat with
  | 0x0 => .ok (.ldReg (xOf w) (yOf w))
  | 0x1 => .ok (.orReg (xOf w) (yOf w))
  | 0x2 => .ok (.andReg (xOf w) (yOf w))
  | 0x3 => .ok (.xorReg (xOf w) (yOf w))
  | 0x4 => .ok (.addReg (xOf w) (yOf w))
  | 0x5 => .ok (.subReg (xOf w) (yOf w))
  | 0x6 => .ok (.shr (xOf w) (yOf w))
  | 0x7 => .ok (.subn (xOf w) (yOf w))
  | 0xE => .ok (.shl (xOf w) (yOf w))
  | _ => .error (.unknownOpcode w)

/-- Group E, keyed by the low byte (R94, R95). -/
def decodeGroupE (w : Word) : Except DecodeError Instr :=
  if kkOf w = 0x9E then .ok (.skp (xOf w))
  else if kkOf w = 0xA1 then .ok (.sknp (xOf w))
  else .error (.unknownOpcode w)

/-- Group F, keyed by the low byte (R94, R95). -/
def decodeGroupF (w : Word) : Except DecodeError Instr :=
  if kkOf w = 0x07 then .ok (.ldVxDT (xOf w))
  else if kkOf w = 0x0A then .ok (.ldVxK (xOf w))
  else if kkOf w = 0x15 then .ok (.ldDTVx (xOf w))
  else if kkOf w = 0x18 then .ok (.ldSTVx (xOf w))
  else if kkOf w = 0x1E then .ok (.addI (xOf w))
  else if kkOf w = 0x29 then .ok (.ldF (xOf w))
  else if kkOf w = 0x33 then .ok (.ldB (xOf w))
  else if kkOf w = 0x55 then .ok (.ldMemVx (xOf w))
  else if kkOf w = 0x65 then .ok (.ldVxMem (xOf w))
  else .error (.unknownOpcode w)

/-- `Decode(w)` of R95. -/
def decodeWord (w : Word) : Except DecodeError Instr :=
  match (opOf w).toNat with
  | 0x0 => decodeGroup0 w
  | 0x1 => .ok (.jp (nnnOf w))
  | 0x2 => .ok (.call (nnnOf w))
  | 0x3 => .ok (.seImm (xOf w) (kkOf w))
  | 0x4 => .ok (.sneImm (xOf w) (kkOf w))
  | 0x5 => if nOf w = 0 then .ok (.seReg (xOf w) (yOf w)) else .error (.unknownOpcode w)
  | 0x6 => .ok (.ldImm (xOf w) (kkOf w))
  | 0x7 => .ok (.addImm (xOf w) (kkOf w))
  | 0x8 => decodeGroup8 w
  | 0x9 => if nOf w = 0 then .ok (.sneReg (xOf w) (yOf w)) else .error (.unknownOpcode w)
  | 0xA => .ok (.ldI (nnnOf w))
  | 0xB => .ok (.jpV0 (nnnOf w))
  | 0xC => .ok (.rnd (xOf w) (kkOf w))
  | 0xD => .ok (.drw (xOf w) (yOf w) (nOf w))
  | 0xE => decodeGroupE w
  | _ => decodeGroupF w

/-- Decode the instruction at the head of a list of bytes; the rest of the list comes with it. -/
def decode : List Byte → Except DecodeError (Instr × List Byte)
  | hi :: lo :: rest =>
    match decodeWord (wordOfBytes hi lo) with
    | .ok i => .ok (i, rest)
    | .error e => .error e
  | _ => .error .truncated

/-! ## Encoding, from the formats of R91 and the rows of R96 -/

/-- Format `NNN`: op, nnn. -/
def formatNNN (op : BitVec 4) (nnn : Addr12) : Word := op ++ nnn

/-- Format `XKK`: op, x, kk. -/
def formatXKK (op : BitVec 4) (x : RegIdx) (kk : Byte) : Word := op ++ (x ++ kk)

/-- Format `XYN`: op, x, y, n. -/
def formatXYN (op : BitVec 4) (x y : RegIdx) (n : BitVec 4) : Word := op ++ (x ++ (y ++ n))

/-- The word of an instruction (R96). Formats `FIXED` and `XSS` are a constant and `XKK` with the
sub-selector in the place of `kk`. The ill-formed `sys` terms get the word their bits spell. -/
def encodeWord : Instr → Word
  | .cls => 0x00E0
  | .ret => 0x00EE
  | .sys nnn => formatNNN 0x0 nnn
  | .jp nnn => formatNNN 0x1 nnn
  | .call nnn => formatNNN 0x2 nnn
  | .seImm x kk => formatXKK 0x3 x kk
  | .sneImm x kk => formatXKK 0x4 x kk
  | .seReg x y => formatXYN 0x5 x y 0x0
  | .ldImm x kk => formatXKK 0x6 x kk
  | .addImm x kk => formatXKK 0x7 x kk
  | .ldReg x y => formatXYN 0x8 x y 0x0
  | .orReg x y => formatXYN 0x8 x y 0x1
  | .andReg x y => formatXYN 0x8 x y 0x2
  | .xorReg x y => formatXYN 0x8 x y 0x3
  | .addReg x y => formatXYN 0x8 x y 0x4
  | .subReg x y => formatXYN 0x8 x y 0x5
  | .shr x y => formatXYN 0x8 x y 0x6
  | .subn x y => formatXYN 0x8 x y 0x7
  | .shl x y => formatXYN 0x8 x y 0xE
  | .sneReg x y => formatXYN 0x9 x y 0x0
  | .ldI nnn => formatNNN 0xA nnn
  | .jpV0 nnn => formatNNN 0xB nnn
  | .rnd x kk => formatXKK 0xC x kk
  | .drw x y n => formatXYN 0xD x y n
  | .skp x => formatXKK 0xE x 0x9E
  | .sknp x => formatXKK 0xE x 0xA1
  | .ldVxDT x => formatXKK 0xF x 0x07
  | .ldVxK x => formatXKK 0xF x 0x0A
  | .ldDTVx x => formatXKK 0xF x 0x15
  | .ldSTVx x => formatXKK 0xF x 0x18
  | .addI x => formatXKK 0xF x 0x1E
  | .ldF x => formatXKK 0xF x 0x29
  | .ldB x => formatXKK 0xF x 0x33
  | .ldMemVx x => formatXKK 0xF x 0x55
  | .ldVxMem x => formatXKK 0xF x 0x65

/-- The two bytes of an instruction as they lie in memory, lower address first (R67, R90). -/
def encode (i : Instr) : List Byte := bytesOfWord (encodeWord i)

/-! ## The opcode table's columns -/

/-- The `mask` and `match` columns of the instruction's row in R96. -/
def rowOf : Instr → Word × Word
  | .cls => (0xFFFF, 0x00E0)
  | .ret => (0xFFFF, 0x00EE)
  | .sys _ => (0xF000, 0x0000)
  | .jp _ => (0xF000, 0x1000)
  | .call _ => (0xF000, 0x2000)
  | .seImm _ _ => (0xF000, 0x3000)
  | .sneImm _ _ => (0xF000, 0x4000)
  | .seReg _ _ => (0xF00F, 0x5000)
  | .ldImm _ _ => (0xF000, 0x6000)
  | .addImm _ _ => (0xF000, 0x7000)
  | .ldReg _ _ => (0xF00F, 0x8000)
  | .orReg _ _ => (0xF00F, 0x8001)
  | .andReg _ _ => (0xF00F, 0x8002)
  | .xorReg _ _ => (0xF00F, 0x8003)
  | .addReg _ _ => (0xF00F, 0x8004)
  | .subReg _ _ => (0xF00F, 0x8005)
  | .shr _ _ => (0xF00F, 0x8006)
  | .subn _ _ => (0xF00F, 0x8007)
  | .shl _ _ => (0xF00F, 0x800E)
  | .sneReg _ _ => (0xF00F, 0x9000)
  | .ldI _ => (0xF000, 0xA000)
  | .jpV0 _ => (0xF000, 0xB000)
  | .rnd _ _ => (0xF000, 0xC000)
  | .drw _ _ _ => (0xF000, 0xD000)
  | .skp _ => (0xF0FF, 0xE09E)
  | .sknp _ => (0xF0FF, 0xE0A1)
  | .ldVxDT _ => (0xF0FF, 0xF007)
  | .ldVxK _ => (0xF0FF, 0xF00A)
  | .ldDTVx _ => (0xF0FF, 0xF015)
  | .ldSTVx _ => (0xF0FF, 0xF018)
  | .addI _ => (0xF0FF, 0xF01E)
  | .ldF _ => (0xF0FF, 0xF029)
  | .ldB _ => (0xF0FF, 0xF033)
  | .ldMemVx _ => (0xF0FF, 0xF055)
  | .ldVxMem _ => (0xF0FF, 0xF065)

/-! ## The host's reading of a table word -/

/-- The bytes, in address order, of an instruction whose bits are `w` as the opcode table numbers them:
bit 0 is the least significant bit of the one 16-bit word, and every bit from `nbits` up is 0. -/
def tableBytes (nbits w : Nat) : List Byte := bytesOfWord (BitVec.ofNat 16 (w % 2 ^ nbits))

/-- What the decoder reads from an instruction whose bits are `w`, numbered as the opcode table numbers
them. -/
def decodeTableWord (nbits w : Nat) : Option Instr :=
  match decode (tableBytes nbits w) with
  | .ok (i, _) => some i
  | .error _ => none

end Sys2Proof
end

