-- ==== Sys2Proof/Config.lean ====
section
/-! DEFINITION. The parameters of R6 of `00_scope.md`, and the one free value of the machine. -/

namespace Sys2Proof.Config

/-- `MEM_SIZE`: bytes of memory, addresses 0x000 to 0xFFF. -/
abbrev memSize : Nat := 4096

/-- `PROG_BASE`: load address of the program and reset value of PC. -/
abbrev progBase : Nat := 0x200

/-- `PROG_MAX`: the largest program in bytes, `MEM_SIZE - PROG_BASE`. -/
abbrev progMax : Nat := 3584

/-- `GLYPH_BASE`: address of the glyph table. -/
abbrev glyphBase : Nat := 0

/-- `GLYPH_STRIDE`: bytes per glyph. -/
abbrev glyphStride : Nat := 5

/-- `FLAG_REG`: index of the flag register VF. -/
abbrev flagReg : RegIdx := 0xF

/-- `STACK_DEPTH`: return-address slots. -/
abbrev stackDepth : Nat := 16

/-- `SCREEN_W`: pixels per row. -/
abbrev screenW : Nat := 64

/-- `SCREEN_H`: rows. -/
abbrev screenH : Nat := 32

/-- `SPRITE_W`: sprite columns. -/
abbrev spriteW : Nat := 8

/-- The parameter `RNG` (R6, R186): the byte that the environment supplies for the k-th draw. A FREE
VALUE: it has no body, so nothing can be proved of it and every claim holds for every sequence of
draws. Log entry 1. -/
opaque rndDraw : Nat → Byte

end Sys2Proof.Config
end

