-- ==== Sys2Proof/Machine/Glyphs.lean ====
section
/-! DEFINITION. The reset contents of memory: the glyph table of R72 of `20_memory.md` at address 0,
zero elsewhere (R73). -/

namespace Sys2Proof.Machine

/-- The 16 glyphs of 5 bytes (R72), glyph d at `5 * d`. -/
def glyphTable : List Byte :=
  [0xF0, 0x90, 0x90, 0x90, 0xF0] ++ [0x20, 0x60, 0x20, 0x20, 0x70] ++
  [0xF0, 0x10, 0xF0, 0x80, 0xF0] ++ [0xF0, 0x10, 0xF0, 0x10, 0xF0] ++
  [0x90, 0x90, 0xF0, 0x10, 0x10] ++ [0xF0, 0x80, 0xF0, 0x10, 0xF0] ++
  [0xF0, 0x80, 0xF0, 0x90, 0xF0] ++ [0xF0, 0x10, 0x20, 0x40, 0x40] ++
  [0xF0, 0x90, 0xF0, 0x90, 0xF0] ++ [0xF0, 0x90, 0xF0, 0x10, 0xF0] ++
  [0xF0, 0x90, 0xF0, 0x90, 0x90] ++ [0xE0, 0x90, 0xE0, 0x90, 0xE0] ++
  [0xF0, 0x80, 0x80, 0x80, 0xF0] ++ [0xE0, 0x90, 0x90, 0x90, 0xE0] ++
  [0xF0, 0x80, 0xF0, 0x80, 0xF0] ++ [0xF0, 0x80, 0xF0, 0x80, 0x80]

/-- The byte an address holds right after Reset, and what an unlisted address of `Memory` reads as:
the glyph table from `GLYPH_BASE` = 0, zero above it (R38, R72, R73). -/
def initialByte (a : Nat) : Byte := glyphTable.getD a 0

end Sys2Proof.Machine
end

