-- ==== Sys2Proof/Machine/State.lean ====
section
/-! DEFINITION. The state of the machine (R20 of `10_state.md`), the reasons a step can stop, and the
state after reset (R38). Plain data: two states can be compared and a state can be written out. -/

namespace Sys2Proof.Machine

/-- The four faults of R245 of `60_exceptions.md`, as the reason held in `RUN`. The numeric code of each
is `HaltReason.code`. -/
inductive HaltReason where
  /-- The fetched word is illegal (R246); raised in the decode phase of any step. -/
  | unknownOpcode
  /-- An access reaches an address of 4096 or more (R251); raised by the fetch of any step and by DRW,
  LD B, LD [I],Vx and LD Vx,[I]. -/
  | addressingError
  /-- CALL with `SP = 16` (R247). -/
  | stackOverflow
  /-- RET with `SP = 0` (R248). -/
  | stackUnderflow
  deriving DecidableEq, Repr

/-- `RUN` of R36: the two stored run states. The key wait is not stored. -/
inductive RunState where
  /-- The machine executes an instruction at every Step. -/
  | running
  /-- The machine is stopped for good; only Reset leaves this state (R252). -/
  | halted (reason : HaltReason)
  deriving DecidableEq, Repr

/-- `result`, the output of a Step (R34, R128). -/
inductive StepResult where
  /-- An instruction executed and completed. -/
  | ok
  /-- LD Vx, K executed and found no key. -/
  | waiting
  /-- This Step raised a fault and halted the machine. -/
  | fault (reason : HaltReason)
  /-- The machine was already halted and the Step did nothing. -/
  | halted
  deriving DecidableEq, Repr

/-- Host-level faults of a step. THERE ARE NONE, so the type has no constructor and nothing raises one:
the spec describes what each of its four faults leaves (R250), so a faulting Step is a NEXT state
whose `run` is `halted` (log entry 3, safe: nothing is left out). -/
inductive Fault where
  deriving DecidableEq, Repr

/-- Refusals of a step. -/
inductive Refusal where
  /-- An instruction of the opcode table that has no meaning yet; raised by `exec` alone. Safe: nothing
  can be proved of such an instruction. No arm of `exec` raises it: every row has its meaning. -/
  | notModelled (mnemonic : String)
  deriving DecidableEq, Repr

/-- Memory as (address, byte) pairs: addresses strictly rising, no entry equal to the reset contents
of its address, which is what an unlisted address reads as (R32, R72, R73). Log entry 5. -/
abbrev Memory := List Host.Cell

/-- The 16 general registers (R21). -/
abbrev RegFile := Vector Byte 16

/-- The 16 stack slots (R26). -/
abbrev Slots := Vector Word 16

/-- The 64 by 32 grid of pixels, 32 rows of 64, true is on; `FB[r * 64 + c]` is row `r`, column `c`
(R30). Log entry 5. -/
abbrev Frame := Vector (Vector Bool 64) 32

/-- The 16 key latches, true is pressed (R31). -/
abbrev Keys := Vector Bool 16

/-- The complete state (R20), the two outputs of the last Step (R34), and the counter of the free
value. -/
structure State where
  /-- `V[0]` to `V[15]` (R21); `V[15]` is the flag register VF (R22). -/
  v : RegFile
  /-- `PC` (R23). -/
  pc : Word
  /-- The index register `I` (R24). -/
  i : Word
  /-- The instruction register `IR`, the last word fetched (R25). -/
  ir : Word
  /-- `RUN` (R36). -/
  run : RunState
  /-- `S[0]` to `S[15]` (R26). -/
  stack : Slots
  /-- `SP`, a number 0 to 16 (R27). Log entry 5. -/
  sp : Fin 17
  /-- The delay timer `DT` (R28). -/
  dt : Byte
  /-- The sound timer `ST` (R29). -/
  st : Byte
  /-- The framebuffer `FB` (R30). -/
  fb : Frame
  /-- The key latches `K` (R31). -/
  keys : Keys
  /-- The memory `M` (R32). -/
  mem : Memory
  /-- The output `result` of the last Step (R34, R128); no meaning reads it. Log entry 2. -/
  result : StepResult
  /-- The output `beep` of the last Step (R34, R127); no meaning reads it. Log entry 2. -/
  beep : Bool
  /-- MODEL: how many draws RND has taken; it indexes the free value `Config.rndDraw`. Log entry 1. -/
  draws : Nat
  deriving DecidableEq, Repr

/-- The state right after Reset (R38, R280). The values of `result` and `draws` are the model's own
(log entries 1 and 2). -/
def State.reset : State where
  v := Vector.replicate 16 0
  pc := 0x0200
  i := 0
  ir := 0
  run := .running
  stack := Vector.replicate 16 0
  sp := 0
  dt := 0
  st := 0
  fb := Vector.replicate 32 (Vector.replicate 64 false)
  keys := Vector.replicate 16 false
  mem := []
  result := .ok
  beep := false
  draws := 0

/-- What a step or a meaning answers. -/
abbrev Answer := Host.Outcome State Fault Refusal

end Sys2Proof.Machine
end

