-- ==== Sys2Proof/Machine/Ops.lean ====
section
/-! DEFINITION. The named operations over memory, registers, stack, screen, keys and timers, taking a
fault (R250 of `60_exceptions.md`), and the phases of a step that are not an instruction's (fetch,
latch of IR, tick: `40_step_sequencer.md`). There is no return from a fault (R252): the one way out of
a halt is Reset, in `HostOps.lean`. -/

namespace Sys2Proof.Machine

/-! ## Memory (`20_memory.md`) -/

/-- The byte at an address: the listed one, else the reset contents. -/
def Memory.read : Memory → Nat → Byte
  | [], a => initialByte a
  | (k, b) :: rest, a => if k = a then b else Memory.read rest a

/-- Drop every entry of an address. -/
def Memory.erase : Memory → Nat → Memory
  | [], _ => []
  | (k, b) :: rest, a => if k = a then Memory.erase rest a else (k, b) :: Memory.erase rest a

/-- Put an entry before the first one with a larger address. -/
def Memory.insert : Memory → Nat → Byte → Memory
  | [], a, b => [(a, b)]
  | (k, c) :: rest, a, b => if a < k then (a, b) :: (k, c) :: rest else (k, c) :: Memory.insert rest a b

/-- `M[a] <- b`. Writing the byte an unlisted address reads as removes the entry. -/
def Memory.write (m : Memory) (a : Nat) (b : Byte) : Memory :=
  if b = initialByte a then Memory.erase m a else Memory.insert (Memory.erase m a) a b

/-- Bytes `M[a]` to `M[a + n - 1]`, lowest address first. -/
def Memory.readBytes (m : Memory) : Nat → Nat → List Byte
  | _, 0 => []
  | a, n + 1 => Memory.read m a :: Memory.readBytes m (a + 1) n

/-- `M[a + k] <- bk`, the first byte of the list at the lowest address. -/
def Memory.writeBytes (m : Memory) : Nat → List Byte → Memory
  | _, [] => m
  | a, b :: bs => Memory.writeBytes (Memory.write m a b) (a + 1) bs

/-- The canonical form: addresses strictly rising and below `MEM_SIZE`, no entry equal to the reset
contents. -/
def Memory.wf : Memory → Bool
  | [] => true
  | (a, b) :: rest =>
    decide (a < Config.memSize) && (b != initialByte a) && rest.all (fun c => decide (a < c.1)) && Memory.wf rest

/-- The bounds check of every access, on natural numbers, for the whole range before any effect (R62 to
R65); an access of no byte is always in range (R66). -/
def inRange (a n : Nat) : Bool := n == 0 || decide (a + n ≤ Config.memSize)

/-- `MemRead(a, n)` (R9, R62, R63, R66). -/
def State.memRead (s : State) (a n : Nat) : Except HaltReason (List Byte) :=
  if inRange a n then .ok (s.mem.readBytes a n) else .error .addressingError

/-- The state with `M[a + k] <- bk`. -/
def State.putBytes (s : State) (a : Nat) (bs : List Byte) : State :=
  { s with mem := s.mem.writeBytes a bs }

/-- `MemWrite(a, n, bs)` with n the length of the list (R9, R64, R66). -/
def State.memWrite (s : State) (a : Nat) (bs : List Byte) : Except HaltReason State :=
  if inRange a bs.length then .ok (s.putBytes a bs) else .error .addressingError

/-! ## General registers (R21, R22) -/

/-- `V[x]`. -/
def State.reg (s : State) (x : RegIdx) : Byte := s.v[x.toNat]'(x.isLt)

/-- `V[x] <- b`. No register is hard-wired (R21). -/
def State.setReg (s : State) (x : RegIdx) (b : Byte) : State := { s with v := s.v.set x.toNat b x.isLt }

/-- `VF`, the flag register `V[0xF]` (R22). -/
def State.vf (s : State) : Byte := s.reg Config.flagReg

/-! ## Program counter and index register -/

/-- `PC <- t`. -/
def State.setPC (s : State) (t : Word) : State := { s with pc := t }

/-- `PC <- PC + 2` mod 65536, the generic advance (R23, R125). -/
def State.advance (s : State) : State := s.setPC (s.pc + 2)

/-- `I <- t` (R24). -/
def State.setI (s : State) (t : Word) : State := { s with i := t }

/-! ## Stack (R142 of `41_control_flow.md`) -/

/-- Slot `S[k]`. -/
def State.slot (s : State) (k : Fin 16) : Word := s.stack[k.val]'(k.isLt)

/-- `push(a)`: StackOverflow at `SP = 16`, checked before any write. -/
def State.push (s : State) (a : Word) : Except HaltReason State :=
  if h : s.sp.val < Config.stackDepth then
    .ok { s with stack := s.stack.set s.sp.val a h, sp := ⟨s.sp.val + 1, Nat.succ_lt_succ h⟩ }
  else .error .stackOverflow

/-- `pop()`: StackUnderflow at `SP = 0`, checked before any write; the slot keeps its value. -/
def State.pop (s : State) : Except HaltReason (Word × State) :=
  match s.sp with
  | ⟨0, _⟩ => .error .stackUnderflow
  | ⟨k + 1, h⟩ => .ok (s.slot ⟨k, Nat.lt_of_succ_lt_succ h⟩, { s with sp := ⟨k, Nat.lt_of_succ_lt h⟩ })

/-! ## Framebuffer (R30, `44_display.md`) -/

/-- The pixel at row `r`, column `c`: `FB[r * 64 + c]`. -/
def Frame.pixel (fb : Frame) (r : Fin 32) (c : Fin 64) : Bool := (fb[r.val]'(r.isLt))[c.val]'(c.isLt)

/-- `FB[r * 64 + c] <- not FB[r * 64 + c]`. -/
def Frame.toggle (fb : Frame) (r : Fin 32) (c : Fin 64) : Frame :=
  fb.set r.val ((fb[r.val]'(r.isLt)).set c.val (!Frame.pixel fb r c) c.isLt) r.isLt

/-- Every pixel off. -/
def Frame.blank : Frame := Vector.replicate 32 (Vector.replicate 64 false)

/-- The row of a row sum: mod 32 (R216). -/
def wrapRow (rs : Nat) : Fin 32 := ⟨rs % Config.screenH, Nat.mod_lt rs (by decide)⟩

/-- The column of a column sum: mod 64 (R216). -/
def wrapCol (cs : Nat) : Fin 64 := ⟨cs % Config.screenW, Nat.mod_lt cs (by decide)⟩

/-- One sprite pixel that is 1, at column sum `cs` and row sum `rs` before the wrap (R214, R216): the
column is taken mod 64, the row mod 32; a pixel that was on sets the collision flag. -/
def drawPixel (rs cs : Nat) (acc : Frame × Bool) : Frame × Bool :=
  (Frame.toggle acc.1 (wrapRow rs) (wrapCol cs), acc.2 || Frame.pixel acc.1 (wrapRow rs) (wrapCol cs))

/-- One sprite row: column j = 0 to 7, bit `7 - j` of the byte is column j (R214). -/
def drawRow (cx rs : Nat) (row : Byte) (acc : Frame × Bool) : Frame × Bool :=
  (List.range Config.spriteW).foldl
    (fun acc j => if row.getLsbD (7 - j) then drawPixel rs (cx + j) acc else acc) acc

/-- The sprite rows from the top, the first at row sum `rs`. The second component is `collided`. -/
def drawRows (cx : Nat) : Nat → List Byte → Frame × Bool → Frame × Bool
  | _, [], acc => acc
  | rs, row :: rows, acc => drawRows cx (rs + 1) rows (drawRow cx rs row acc)

/-- The pixel of a state at row `r`, column `c`. -/
def State.pixel (s : State) (r : Fin 32) (c : Fin 64) : Bool := Frame.pixel s.fb r c

/-- The state with another framebuffer. -/
def State.setFB (s : State) (fb : Frame) : State := { s with fb := fb }

/-! ## Keyboard (R31, R238 of `45_keyboard_timers.md`) -/

/-- `K[k]`. -/
def State.key (s : State) (k : KeyIdx) : Bool := s.keys[k.toNat]'(k.isLt)

/-- `any_pressed()`: the lowest-numbered pressed key, or none (R238). -/
def State.anyPressed (s : State) : Option KeyIdx :=
  ((List.range 16).map (BitVec.ofNat 4)).find? s.key

/-! ## Timers (R28, R29) -/

/-- `DT <- b`. -/
def State.setDT (s : State) (b : Byte) : State := { s with dt := b }

/-- `ST <- b`. -/
def State.setST (s : State) (b : Byte) : State := { s with st := b }

/-- `tick()` of one timer: "decrements by 1 if > 0, otherwise no-op" (R126). -/
def countDown (t : Byte) : Byte := if t = 0 then 0 else t - 1

/-- The tick phase (R126, R127): both timers once; `beep` is true exactly when ST was 1. -/
def State.tick (s : State) : State :=
  { s with beep := decide (s.st = 1), dt := countDown s.dt, st := countDown s.st }

/-! ## Fault codes (R245) -/

/-- The code of a halt reason: the table of R245 (the numbers are decision D19). -/
def HaltReason.code : HaltReason → Nat
  | .unknownOpcode => 1
  | .addressingError => 2
  | .stackOverflow => 3
  | .stackUnderflow => 4

/-- The code of a run state (R245, R36): 0 while running, else the code of the halt reason. -/
def RunState.code : RunState → Nat
  | .running => 0
  | .halted f => f.code

/-- The halt code a host sees in a state (R245; what `halt_reason` of R39 shows). It is computed from RUN,
its one home, and no meaning reads it. -/
def State.haltCode (s : State) : Nat := s.run.code

/-! ## Faults (R250) -/

/-- Taking fault `f`, the one entry shared by every fault (R250): RUN becomes Halted(f), the outputs are
Fault(f) and no beep, and nothing else changes. -/
def State.takeFault (s : State) (f : HaltReason) : State :=
  { s with run := .halted f, result := .fault f, beep := false }

/-- The end of an execute phase (R124): all its writes, or, raising a fault, none of them and the fault
taken from the state before. -/
def State.conclude (s : State) (r : Except HaltReason State) : Answer :=
  match r with
  | .ok t => .next t
  | .error f => .next (s.takeFault f)

/-! ## The phases of a step around the execute phase (R131) -/

/-- The fetch phase (R121): two bytes at PC, high byte first (R67). -/
def State.fetch (s : State) : Except HaltReason Word :=
  match s.memRead s.pc.toNat 2 with
  | .ok bytes => .ok (wordOfBytes (bytes.getD 0 0) (bytes.getD 1 0))
  | .error f => .error f

/-- After a fetch without a fault: IR is the word (R122); the outputs start as Ok and no beep. -/
def State.latch (s : State) (w : Word) : State := { s with ir := w, result := .ok, beep := false }

/-- The end of a step: the tick phase, unless the execute phase raised a fault (R126, R250). -/
def State.endStep (s : State) : State :=
  match s.run with
  | .running => s.tick
  | .halted _ => s

/-- A Step on a halted machine (R129): nothing changes; the outputs are Halted and no beep. -/
def State.idle (s : State) : State := { s with result := .halted, beep := false }

end Sys2Proof.Machine
end

