-- ==== Sys2Proof/Machine/Operands.lean ====
section
/-! DEFINITION. The operand forms of the instruction files: literals and addresses widened to 16 bits,
the key named by a register, the glyph of a register, the three decimal digits, the register block
V[0] to V[x], and the destination of a skip. -/

namespace Sys2Proof.Machine

/-- `zext_16(nnn)`, an absolute byte address (R92). -/
def target (nnn : Addr12) : Word := nnn.setWidth 16

/-- `zext_16(nnn) + zext_16(V[0])`, not reduced to 12 bits (R157). -/
def State.indexedTarget (s : State) (nnn : Addr12) : Word := target nnn + (s.reg 0).setWidth 16

/-- `k = V[x][3:0]`, the key a register names (R226). -/
def State.keyOf (s : State) (x : RegIdx) : KeyIdx := (s.reg x).extractLsb' 0 4

/-- `5 * zext_16(a)`: `GLYPH_BASE + GLYPH_STRIDE * a`, not masked to 4 bits (R195). -/
def glyphAddress (a : Byte) : Word :=
  BitVec.ofNat 16 (Config.glyphBase + Config.glyphStride * a.toNat)

/-- Hundreds, tens, ones of a byte (R197). -/
def bcdDigits (a : Byte) : List Byte :=
  [BitVec.ofNat 8 (a.toNat / 100), BitVec.ofNat 8 (a.toNat / 10 % 10), BitVec.ofNat 8 (a.toNat % 10)]

/-- `x + 1`, the bytes of a register-block transfer (R199, R201). -/
def blockLength (x : RegIdx) : Nat := x.toNat + 1

/-- `[V[0], V[1], ..., V[x]]` (R199). -/
def State.regBlock (s : State) (x : RegIdx) : List Byte :=
  (List.range (blockLength x)).map (fun k => s.reg (BitVec.ofNat 4 k))

/-- `V[k] <- b0`, `V[k+1] <- b1`, and so on (R201). -/
def State.loadRegs (s : State) : Nat → List Byte → State
  | _, [] => s
  | k, b :: bs => State.loadRegs (s.setReg (BitVec.ofNat 4 k) b) (k + 1) bs

/-- The base address of every data access: `I` as a natural number (R83, R190). -/
def State.base (s : State) : Nat := s.i.toNat

/-- `PC <- PC + 4` if the condition holds, else `PC <- PC + 2` (R148). -/
def State.skipIf (s : State) (c : Bool) : State := s.setPC (if c then s.pc + 4 else s.pc + 2)

end Sys2Proof.Machine
end

