-- ==== Sys2Proof/Machine/ControlFlow.lean ====
section
/-! DEFINITION. The control-flow instructions of `41_control_flow.md`. They write PC, and CALL and RET
also SP and a slot; targets are not checked when written (R140). -/

namespace Sys2Proof.Machine

/-- SYS nnn (R141): a no-operation; `nnn` is ignored. -/
def execSys (_nnn : Addr12) (s : State) : Answer := .next s.advance

/-- RET (R144): PC is the popped slot as it is; StackUnderflow at `SP = 0`. -/
def execRet (s : State) : Answer :=
  s.conclude (match s.pop with
    | .ok (a, t) => .ok (t.setPC a)
    | .error f => .error f)

/-- JP nnn (R145). -/
def execJp (nnn : Addr12) (s : State) : Answer := .next (s.setPC (target nnn))

/-- CALL nnn (R146): pushes `PC + 2`; StackOverflow at `SP = 16`. -/
def execCall (nnn : Addr12) (s : State) : Answer :=
  s.conclude (match s.push (s.pc + 2) with
    | .ok t => .ok (t.setPC (target nnn))
    | .error f => .error f)

/-- SE Vx, kk (R149). -/
def execSeImm (x : RegIdx) (kk : Byte) (s : State) : Answer :=
  .next (s.skipIf (decide (s.reg x = kk)))

/-- SNE Vx, kk (R150). -/
def execSneImm (x : RegIdx) (kk : Byte) (s : State) : Answer :=
  .next (s.skipIf (decide (s.reg x ≠ kk)))

/-- SE Vx, Vy (R151). -/
def execSeReg (x y : RegIdx) (s : State) : Answer :=
  .next (s.skipIf (decide (s.reg x = s.reg y)))

/-- SNE Vx, Vy (R152). -/
def execSneReg (x y : RegIdx) (s : State) : Answer :=
  .next (s.skipIf (decide (s.reg x ≠ s.reg y)))

/-- JP V0, nnn (R157): the register is always V[0]; the sum is not reduced to 12 bits. -/
def execJpV0 (nnn : Addr12) (s : State) : Answer := .next (s.setPC (s.indexedTarget nnn))

end Sys2Proof.Machine
end

