-- ==== Sys2Proof/Machine/Flags.lean ====
section
/-! DEFINITION. Every flag computation of the spec (R40 of `10_state.md`) and the order of the result
and flag writes (R161 of `42_load_alu.md`). -/

namespace Sys2Proof.Machine

/-- The flag value, 0x00 or 0x01, in all 8 bits of VF (R161). -/
def flagByte (c : Bool) : Byte := if c then 1 else 0

/-- Carry of `a + b`: 1 if the sum is above 255 (R172). -/
def carryFlag (a b : Byte) : Byte := flagByte (decide (a.toNat + b.toNat > 255))

/-- NOT borrow of `a - b`: 1 if `a >= b` (R174, R178). -/
def notBorrowFlag (a b : Byte) : Byte := flagByte (decide (a.toNat ≥ b.toNat))

/-- The bit a right shift by one puts out: bit 0 (R176). -/
def shiftRightFlag (a : Byte) : Byte := flagByte (a.getLsbD 0)

/-- The bit a left shift by one puts out: bit 7 (R180). -/
def shiftLeftFlag (a : Byte) : Byte := flagByte (a.getLsbD 7)

/-- 1 if any pixel went from on to off (R214). -/
def collisionFlag (collided : Bool) : Byte := flagByte collided

/-- `V[0xF] <- f`. -/
def State.setVF (s : State) (f : Byte) : State := s.setReg Config.flagReg f

/-- The result to V[x], then the flag to VF, both computed before any write: with `x = 0xF` the flag
stays and the result is lost (R161). -/
def State.setResultFlag (s : State) (x : RegIdx) (result flag : Byte) : State :=
  (s.setReg x result).setVF flag

end Sys2Proof.Machine
end

