-- ==== Sys2Proof/Machine/Display.lean ====
section
/-! DEFINITION. The display instructions of `44_display.md`: the only writers of the framebuffer besides
Reset (R210). -/

namespace Sys2Proof.Machine

/-- CLS (R212): every pixel off. -/
def execCls (s : State) : Answer := .next (s.setFB Frame.blank).advance

/-- The framebuffer and the collision after drawing `rows` with the top left at V[x], V[y] (R214,
R216). -/
def State.drawSprite (s : State) (x y : RegIdx) (rows : List Byte) : Frame × Bool :=
  drawRows (s.reg x).toNat (s.reg y).toNat rows (s.fb, false)

/-- DRW Vx, Vy, n (R214): n rows from memory at I, XORed onto the screen; VF is the collision. -/
def execDrw (x y : RegIdx) (n : Height) (s : State) : Answer :=
  s.conclude (match s.memRead s.base n.toNat with
    | .ok rows =>
      .ok (((s.setFB (s.drawSprite x y rows).1).setVF (collisionFlag (s.drawSprite x y rows).2)).advance)
    | .error f => .error f)

end Sys2Proof.Machine
end

