-- ==== Sys2Proof/Machine/IndexMemory.lean ====
section
/-! DEFINITION. The index-register and memory instructions of `43_index_memory.md`. The base of every
transfer is I, which no transfer changes; a transfer completes in full or faults with nothing changed
(R190). -/

namespace Sys2Proof.Machine

/-- LD I, nnn (R191). -/
def execLdI (nnn : Addr12) (s : State) : Answer := .next (s.setI (target nnn)).advance

/-- ADD I, Vx (R193): mod 65536, no flag, no fault. -/
def execAddI (x : RegIdx) (s : State) : Answer :=
  .next (s.setI (s.i + (s.reg x).setWidth 16)).advance

/-- LD F, Vx (R195): `I <- 5 * V[x]`. -/
def execLdF (x : RegIdx) (s : State) : Answer := .next (s.setI (glyphAddress (s.reg x))).advance

/-- LD B, Vx (R197): hundreds, tens, ones of V[x] at I, I+1, I+2. -/
def execLdB (x : RegIdx) (s : State) : Answer :=
  s.conclude (match s.memWrite s.base (bcdDigits (s.reg x)) with
    | .ok t => .ok t.advance
    | .error f => .error f)

/-- LD [I], Vx (R199): V[0] to V[x] at I and up. -/
def execLdMemVx (x : RegIdx) (s : State) : Answer :=
  s.conclude (match s.memWrite s.base (s.regBlock x) with
    | .ok t => .ok t.advance
    | .error f => .error f)

/-- LD Vx, [I] (R201): every byte is read before any register is written. -/
def execLdVxMem (x : RegIdx) (s : State) : Answer :=
  s.conclude (match s.memRead s.base (blockLength x) with
    | .ok bytes => .ok (s.loadRegs 0 bytes).advance
    | .error f => .error f)

end Sys2Proof.Machine
end

