-- ==== Sys2Proof/Machine/KeyboardTimers.lean ====
section
/-! DEFINITION. The keyboard and timer instructions of `45_keyboard_timers.md`. None writes VF as a flag
and none can fault (R225). -/

namespace Sys2Proof.Machine

/-- SKP Vx (R226): skip if the key named by the low nibble of V[x] is pressed. -/
def execSkp (x : RegIdx) (s : State) : Answer := .next (s.skipIf (s.key (s.keyOf x)))

/-- SKNP Vx (R228): skip if it is not pressed. -/
def execSknp (x : RegIdx) (s : State) : Answer := .next (s.skipIf (!s.key (s.keyOf x)))

/-- The execute phase of LD Vx, K reports `waiting` (R230, R128): PC and all state stay. -/
def State.wait (s : State) : State := { s with result := .waiting }

/-- LD Vx, K (R230): with no key pressed PC stays and the step waits; else V[x] is the lowest pressed
key. The latch is not cleared. -/
def execLdVxK (x : RegIdx) (s : State) : Answer :=
  match s.anyPressed with
  | none => .next s.wait
  | some k => .next (s.setReg x (k.setWidth 8)).advance

/-- LD Vx, DT (R232): DT before this step's tick. -/
def execLdVxDT (x : RegIdx) (s : State) : Answer := .next (s.setReg x s.dt).advance

/-- LD DT, Vx (R234): the tick of the same step then acts on the new value. -/
def execLdDTVx (x : RegIdx) (s : State) : Answer := .next (s.setDT (s.reg x)).advance

/-- LD ST, Vx (R236): the tick of the same step then acts on the new value. -/
def execLdSTVx (x : RegIdx) (s : State) : Answer := .next (s.setST (s.reg x)).advance

end Sys2Proof.Machine
end

