-- ==== Sys2Proof/Machine/LoadAlu.lean ====
section
/-! DEFINITION. The register load, arithmetic, logic, shift and random instructions of
`42_load_alu.md`. Each writes V[x] and possibly VF, sets `PC <- PC + 2` and cannot fault (R160). -/

namespace Sys2Proof.Machine

/-- LD Vx, kk (R162). -/
def execLdImm (x : RegIdx) (kk : Byte) (s : State) : Answer := .next (s.setReg x kk).advance

/-- ADD Vx, kk (R163): wrapping, no flag. -/
def execAddImm (x : RegIdx) (kk : Byte) (s : State) : Answer :=
  .next (s.setReg x (s.reg x + kk)).advance

/-- LD Vx, Vy (R164). -/
def execLdReg (x y : RegIdx) (s : State) : Answer := .next (s.setReg x (s.reg y)).advance

/-- OR Vx, Vy (R166): no flag. -/
def execOr (x y : RegIdx) (s : State) : Answer := .next (s.setReg x (s.reg x ||| s.reg y)).advance

/-- AND Vx, Vy (R168): no flag. -/
def execAnd (x y : RegIdx) (s : State) : Answer := .next (s.setReg x (s.reg x &&& s.reg y)).advance

/-- XOR Vx, Vy (R170): no flag. -/
def execXor (x y : RegIdx) (s : State) : Answer := .next (s.setReg x (s.reg x ^^^ s.reg y)).advance

/-- ADD Vx, Vy (R172): VF is the carry. -/
def execAddReg (x y : RegIdx) (s : State) : Answer :=
  .next (s.setResultFlag x (s.reg x + s.reg y) (carryFlag (s.reg x) (s.reg y))).advance

/-- SUB Vx, Vy (R174): VF is NOT borrow of `V[x] - V[y]`. -/
def execSub (x y : RegIdx) (s : State) : Answer :=
  .next (s.setResultFlag x (s.reg x - s.reg y) (notBorrowFlag (s.reg x) (s.reg y))).advance

/-- SHR Vx (R176): in place, `y` ignored; VF is the bit shifted out. -/
def execShr (x _y : RegIdx) (s : State) : Answer :=
  .next (s.setResultFlag x (s.reg x >>> 1) (shiftRightFlag (s.reg x))).advance

/-- SUBN Vx, Vy (R178): VF is NOT borrow of `V[y] - V[x]`. -/
def execSubn (x y : RegIdx) (s : State) : Answer :=
  .next (s.setResultFlag x (s.reg y - s.reg x) (notBorrowFlag (s.reg y) (s.reg x))).advance

/-- SHL Vx (R180): in place, `y` ignored; VF is the bit shifted out. -/
def execShl (x _y : RegIdx) (s : State) : Answer :=
  .next (s.setResultFlag x (s.reg x <<< 1) (shiftLeftFlag (s.reg x))).advance

/-- The state after RND when the environment supplies the byte `draw` (R186). -/
def State.randomLoad (s : State) (x : RegIdx) (kk draw : Byte) : State :=
  (s.setReg x (draw &&& kk)).advance

/-- The byte the environment supplies to this draw: the free value (log entry 1). -/
def State.draw (s : State) : Byte := Config.rndDraw s.draws

/-- The model's counter moves on, so that the next draw is another one (log entry 1). -/
def State.nextDraw (s : State) : State := { s with draws := s.draws + 1 }

/-- RND Vx, kk (R186): `V[x] <- rnd & kk`, `rnd` a free value, fresh at every draw. -/
def execRnd (x : RegIdx) (kk : Byte) (s : State) : Answer :=
  .next (s.randomLoad x kk s.draw).nextDraw

end Sys2Proof.Machine
end

