-- ==== Sys2Proof/Machine/Step.lean ====
section
/-! DEFINITION. The step of R131 of `40_step_sequencer.md`, and how the host places one instruction where
the next step fetches. -/

namespace Sys2Proof.Machine

/-- `Step(rnd)` (R120, R131): fetch, decode, execute, tick; a fault of any phase is taken at once; a
halted machine does nothing (R129). The input `rnd` is the free value of `execRnd`. -/
def step (s : State) : Host.Outcome State Fault Refusal :=
  match s.run with
  | .halted _ => .next s.idle
  | .running =>
    match s.fetch with
    | .error f => .next (s.takeFault f)
    | .ok w =>
      match decodeWord w with
      | .error _ => .next ((s.latch w).takeFault .unknownOpcode)
      | .ok i =>
        match exec i (s.latch w) with
        | .next t => .next t.endStep
        | .fault r => .fault r
        | .refused r => .refused r

/-- Where `withFetchWord` places the instruction: at PC, or, when PC is no fetchable address, at the
entry point 0x0200. -/
def State.fetchPlace (s : State) : Word :=
  if s.pc.toNat + 2 ≤ Config.memSize then s.pc else BitVec.ofNat 16 Config.progBase

/-- The state with the instruction of bits `w` (numbered as the opcode table numbers them) where the
next step fetches; the machine is running, and PC stays unless it is no fetchable address. Log
entry 4. -/
def State.withFetchWord (s : State) (nbits w : Nat) : State :=
  { s.putBytes s.fetchPlace.toNat (tableBytes nbits w) with pc := s.fetchPlace, run := .running }

end Sys2Proof.Machine
end

