-- ==== Sys2Proof/Machine/HostOps.lean ====
section
/-! DEFINITION. The host operations of R35 of `10_state.md`: Reset, LoadProgram, SetKey, Step,
ReadPixels, Observe, each atomic and between two steps (log entry 7). -/

namespace Sys2Proof.Machine

/-- Reset (R280): every piece of state takes its reset value, in any run state. The model's draw
counter is no state of the spec and goes on, so that draws after a Reset are fresh ones (log entry 1). -/
def State.hostReset (s : State) : State := { State.reset with draws := s.draws }

/-- LoadProgram (R74): at most 3584 bytes to 0x200 and up, else ProgramLoadError (`none`) and no byte
changes; no other state changes. -/
def State.loadProgram (s : State) (bytes : List Byte) : Option State :=
  if bytes.length ≤ Config.progMax then some (s.putBytes Config.progBase bytes) else none

/-- SetKey (R240): `K[k] <- b`, nothing else. -/
def State.setKey (s : State) (k : KeyIdx) (b : Bool) : State :=
  { s with keys := s.keys.set k.toNat b k.isLt }

/-- ReadPixels (R221): `FB[0]` to `FB[2047]`, row 0 first, each row left to right. -/
def State.readPixels (s : State) : List Bool := s.fb.toList.flatMap Vector.toList

/-- The host operations with their arguments (R35). Step's input `rnd` is the free value. -/
inductive HostOp where
  | reset
  | loadProgram (bytes : List Byte)
  | setKey (k : KeyIdx) (b : Bool)
  | step
  | readPixels
  | observe
  deriving DecidableEq, Repr

/-- What a host operation returns (R35). -/
inductive HostReply where
  /-- Reset and SetKey return nothing. -/
  | nothing
  /-- LoadProgram succeeded. -/
  | loaded
  /-- LoadProgram was given too many bytes; not a fault of the machine (R253). -/
  | programLoadError
  /-- The two outputs of a Step (R34). -/
  | stepped (result : StepResult) (beep : Bool)
  /-- The 2048 pixels. -/
  | pixels (fb : List Bool)
  /-- The state, read-only (R262). -/
  | observed (s : State)
  deriving DecidableEq, Repr

/-- One host operation: the state after it and what it returns. -/
def hostOp (op : HostOp) (s : State) : Host.Outcome (State × HostReply) Fault Refusal :=
  match op with
  | .reset => .next (s.hostReset, .nothing)
  | .loadProgram bytes =>
    match s.loadProgram bytes with
    | some t => .next (t, .loaded)
    | none => .next (s, .programLoadError)
  | .setKey k b => .next (s.setKey k b, .nothing)
  | .step =>
    match step s with
    | .next t => .next (t, .stepped t.result t.beep)
    | .fault r => .fault r
    | .refused r => .refused r
  | .readPixels => .next (s, .pixels s.readPixels)
  | .observe => .next (s, .observed s)

end Sys2Proof.Machine
end

