-- ==== Sys2Proof/Safety.lean ====
section
/-! DEFINITION. The terms claims are written in: the parts of a state and what leaves them unchanged, the
spec's own tables of accesses, faults and flags read as functions, and the invariants of the machine. -/

namespace Sys2Proof.Machine

/-! ## Frames -/

/-- The parts of a state, one name for each register, slot, pixel, key, byte of memory and scalar of R20
of `10_state.md`, and for the model's own fields. -/
inductive Part where
  | reg (r : RegIdx)
  | pc
  | index
  | ir
  | run
  | slot (k : Fin 16)
  | sp
  | dt
  | st
  | pixel (r : Fin 32) (c : Fin 64)
  | key (k : KeyIdx)
  | byte (a : Nat)
  | result
  | beep
  | draws
  deriving DecidableEq, Repr

/-- The part has the same value in the two states; a byte of memory is compared by reading it. -/
def Part.Kept (s t : State) : Part → Prop
  | .reg r => t.reg r = s.reg r
  | .pc => t.pc = s.pc
  | .index => t.i = s.i
  | .ir => t.ir = s.ir
  | .run => t.run = s.run
  | .slot k => t.slot k = s.slot k
  | .sp => t.sp = s.sp
  | .dt => t.dt = s.dt
  | .st => t.st = s.st
  | .pixel r c => t.pixel r c = s.pixel r c
  | .key k => t.key k = s.key k
  | .byte a => t.mem.read a = s.mem.read a
  | .result => t.result = s.result
  | .beep => t.beep = s.beep
  | .draws => t.draws = s.draws

/-- Every part that `W` does not name is unchanged from `s` to `t`. -/
def ChangesOnly (W : Part → Prop) (s t : State) : Prop := ∀ p, ¬ W p → p.Kept s t

/-- The parts that taking a fault writes (R250): RUN and the two outputs. -/
def faultParts (p : Part) : Prop := p = .run ∨ p = .result ∨ p = .beep

/-- The execute phase of `i` in `s` answers a next state, and that state is as `P` says. -/
def Completes (i : Instr) (s : State) (P : State → Prop) : Prop := ∃ t, exec i s = .next t ∧ P t

/-- The state `t` is `s` with fault `f` taken: RUN and the outputs say so, and nothing else changed
(R250). -/
def FaultTaken (f : HaltReason) (s t : State) : Prop :=
  t.run = .halted f ∧ t.result = .fault f ∧ t.beep = false ∧ ChangesOnly faultParts s t

/-- The word of number `n` decodes to `i`. -/
def DecodesAs (n : Nat) (i : Instr) : Prop := decodeWord (BitVec.ofNat 16 n) = .ok i

/-! ## The spec's tables, read as functions of an instruction -/

/-- How many bytes of memory an instruction accesses at I (R70 of `20_memory.md`); 0 for every
instruction that makes no data access. -/
def accessLength : Instr → Nat
  | .drw _ _ n => n.toNat
  | .ldB _ => 3
  | .ldMemVx x => x.toNat + 1
  | .ldVxMem x => x.toNat + 1
  | .cls | .ret | .sys _ | .jp _ | .call _ | .seImm _ _ | .sneImm _ _ | .seReg _ _ | .ldImm _ _
  | .addImm _ _ | .ldReg _ _ | .orReg _ _ | .andReg _ _ | .xorReg _ _ | .addReg _ _ | .subReg _ _
  | .shr _ _ | .subn _ _ | .shl _ _ | .sneReg _ _ | .ldI _ | .jpV0 _ | .rnd _ _ | .skp _ | .sknp _
  | .ldVxDT _ | .ldVxK _ | .ldDTVx _ | .ldSTVx _ | .addI _ | .ldF _ => 0

/-- How many bytes of memory an instruction stores at I (R60, R70). -/
def storeLength : Instr → Nat
  | .ldB _ => 3
  | .ldMemVx x => x.toNat + 1
  | .cls | .ret | .sys _ | .jp _ | .call _ | .seImm _ _ | .sneImm _ _ | .seReg _ _ | .ldImm _ _
  | .addImm _ _ | .ldReg _ _ | .orReg _ _ | .andReg _ _ | .xorReg _ _ | .addReg _ _ | .subReg _ _
  | .shr _ _ | .subn _ _ | .shl _ _ | .sneReg _ _ | .ldI _ | .jpV0 _ | .rnd _ _ | .drw _ _ _ | .skp _
  | .sknp _ | .ldVxDT _ | .ldVxK _ | .ldDTVx _ | .ldSTVx _ | .addI _ | .ldF _ | .ldVxMem _ => 0

/-- An access of `n` bytes at `a` faults: it has at least one byte and its range passes the end of memory
(R63, R64, R66, R251). -/
def accessFaults (a n : Nat) : Prop := n ≥ 1 ∧ a + n > 4096

/-- The condition of the one fault an instruction can raise in its execute phase (R245, R251, R254). -/
def executeFault (s : State) : Instr → HaltReason → Prop
  | .call _, .stackOverflow => s.sp.val = 16
  | .ret, .stackUnderflow => s.sp.val = 0
  | i, .addressingError => accessFaults s.i.toNat (accessLength i)
  | _, _ => False

/-- The word the next step fetches: `M[PC] ++ M[PC + 1]` (R121). -/
def State.wordAtPC (s : State) : Word := s.mem.read s.pc.toNat ++ s.mem.read (s.pc.toNat + 1)

/-- The condition, read off a running state, under which its next step raises a fault, in phase order
(R245, R254). -/
def stepFault (s : State) (f : HaltReason) : Prop :=
  if s.pc.toNat + 2 > 4096 then f = .addressingError
  else match decodeWord s.wordAtPC with
    | .error _ => f = .unknownOpcode
    | .ok i => executeFault s i f

/-- The value VF holds after an instruction that writes it as a flag, and `none` for every other
instruction: the table of R40. DRW's entry is stated with the drawing, not here. -/
def arithmeticFlag (s : State) : Instr → Option Nat
  | .addReg x y => some (if (s.reg x).toNat + (s.reg y).toNat > 255 then 1 else 0)
  | .subReg x y => some (if (s.reg x).toNat ≥ (s.reg y).toNat then 1 else 0)
  | .shr x _ => some ((s.reg x).toNat % 2)
  | .subn x y => some (if (s.reg y).toNat ≥ (s.reg x).toNat then 1 else 0)
  | .shl x _ => some ((s.reg x).toNat / 128)
  | .cls | .ret | .sys _ | .jp _ | .call _ | .seImm _ _ | .sneImm _ _ | .seReg _ _ | .ldImm _ _
  | .addImm _ _ | .ldReg _ _ | .orReg _ _ | .andReg _ _ | .xorReg _ _ | .sneReg _ _ | .ldI _ | .jpV0 _
  | .rnd _ _ | .drw _ _ _ | .skp _ | .sknp _ | .ldVxDT _ | .ldVxK _ | .ldDTVx _ | .ldSTVx _ | .addI _
  | .ldF _ | .ldB _ | .ldMemVx _ | .ldVxMem _ => none

/-- The registers an instruction may write as its destination (R21), the flag apart. -/
def isDestination (r : RegIdx) : Instr → Prop
  | .ldImm x _ | .addImm x _ | .ldReg x _ | .orReg x _ | .andReg x _ | .xorReg x _ | .addReg x _
  | .subReg x _ | .shr x _ | .subn x _ | .shl x _ | .rnd x _ | .ldVxDT x | .ldVxK x => r = x
  | .ldVxMem x => r.toNat ≤ x.toNat
  | .cls | .ret | .sys _ | .jp _ | .call _ | .seImm _ _ | .sneImm _ _ | .seReg _ _ | .sneReg _ _ | .ldI _
  | .jpV0 _ | .drw _ _ _ | .skp _ | .sknp _ | .ldDTVx _ | .ldSTVx _ | .addI _ | .ldF _ | .ldB _
  | .ldMemVx _ => False

/-! ## Sprites (R214, R216) -/

/-- Sprite row `i`, column `j` of the `n` rows at I is a 1 bit (bit 7 of a byte is its column 0) and its
pixel is row `r`, column `c`, with the top left at `(cx, cy)`. -/
def spriteBit (s : State) (cx cy n : Nat) (r : Fin 32) (c : Fin 64) : Prop :=
  ∃ i j : Nat, i < n ∧ j < 8 ∧ (s.mem.read (s.i.toNat + i)).getLsbD (7 - j) = true ∧
    r.val = (cy + i) % 32 ∧ c.val = (cx + j) % 64

/-! ## Invariants -/

/-- R23: PC is at most 0x10FE, and every slot below SP is at most 0x1000. -/
def State.Bounded (s : State) : Prop :=
  s.pc.toNat ≤ 0x10FE ∧ ∀ k : Fin 16, k.val < s.sp.val → (s.slot k).toNat ≤ 0x1000

/-- The invariant of every run: memory is in its canonical form, and R23's bounds hold. -/
def State.Inv (s : State) : Prop := s.mem.wf = true ∧ s.Bounded

/-- R249: a halted state itself shows why it halted, in RUN, PC, IR, I and SP. -/
def State.FaultExplained (s : State) : Prop :=
  match s.run with
  | .running => True
  | .halted .unknownOpcode => ∃ e, decodeWord s.ir = .error e
  | .halted .addressingError =>
    s.pc.toNat + 2 > 4096 ∨ ∃ i, decodeWord s.ir = .ok i ∧ accessFaults s.i.toNat (accessLength i)
  | .halted .stackOverflow => s.sp.val = 16 ∧ ∃ nnn, decodeWord s.ir = .ok (.call nnn)
  | .halted .stackUnderflow => s.sp.val = 0 ∧ decodeWord s.ir = .ok .ret

/-- R128, R129, R250: the outputs of the last step agree with RUN. -/
def State.OutputsAgree (s : State) : Prop :=
  match s.run with
  | .running => s.result = .ok ∨ s.result = .waiting
  | .halted f => (s.result = .fault f ∨ s.result = .halted) ∧ s.beep = false

end Sys2Proof.Machine
end

