-- ==== Sys2Proof/Certificates/Slice0/Obligations.lean ====
section
/-! DEFINITION. The statements for the provers, from the numbered rules of the spec. Where a clause rests
on a decision D<n> of `92_eei_decisions.md`, or on an entry of the assumption log, the docstring says so. -/

open Sys2Proof Sys2Proof.Machine

/-! ## Encoding -/

/-- R93's three example words, and six further words written out from R91 and R95, decode to the instruction
they stand for; `01E0` is SYS and not CLS (R98, with decision D5, log entry 6); `F100` is no instruction
(R97). A sanity statement. -/
def Obligations.DecodesWordsOfTheSpec : Prop :=
  decodeWord 0x6001 = .ok (.ldImm 0 0x01) ∧ decodeWord 0x6102 = .ok (.ldImm 1 0x02) ∧
  decodeWord 0x8014 = .ok (.addReg 0 1) ∧ decodeWord 0x1234 = .ok (.jp 0x234) ∧
  decodeWord 0x00EE = .ok .ret ∧ decodeWord 0x01E0 = .ok (.sys 0x1E0) ∧
  decodeWord 0xD125 = .ok (.drw 1 2 5) ∧ decodeWord 0xF155 = .ok (.ldMemVx 1) ∧
  decodeWord 0xE1A1 = .ok (.sknp 1) ∧ decodeWord 0xF100 = .error (.unknownOpcode 0xF100)

/-- R103, first half: decoding the bytes of a well-formed instruction gives that instruction, with every
operand at every value, whatever bytes follow. -/
def Obligations.DecodeOfEncodeIsTheInstruction : Prop :=
  ∀ (i : Instr) (rest : List Byte), i.WellFormed → decode (encode i ++ rest) = .ok (i, rest)

/-- R95: a word that decodes has exactly one instruction, and it is well formed: encoding it gives the word
back, so no bit of a word is dropped. -/
def Obligations.EncodeOfDecodeIsTheWord : Prop :=
  ∀ (w : Word) (i : Instr), decodeWord w = .ok i → i.WellFormed ∧ encodeWord i = w

/-- R97: the illegal words are exactly those of its table (strict sub-selectors: decision D5). -/
def Obligations.IllegalWordsAreExactlyTheTable : Prop :=
  ∀ w : Word, (∃ e, decodeWord w = .error e) ↔
    (w.toNat / 4096 = 5 ∧ w.toNat % 16 ≠ 0) ∨
    (w.toNat / 4096 = 8 ∧ w.toNat % 16 ≥ 8 ∧ w.toNat % 16 ≠ 0xE) ∨
    (w.toNat / 4096 = 9 ∧ w.toNat % 16 ≠ 0) ∨
    (w.toNat / 4096 = 0xE ∧ w.toNat % 256 ∉ [0x9E, 0xA1]) ∨
    (w.toNat / 4096 = 0xF ∧
      w.toNat % 256 ∉ [0x07, 0x0A, 0x15, 0x18, 0x1E, 0x29, 0x33, 0x55, 0x65])

/-! ## The step -/

/-- R131: where the machine runs and the bytes at PC decode to a well-formed instruction, the step is the
execute phase of it on the state with IR and the outputs set, and then, unless that raised a fault,
the tick. -/
def Obligations.StepRunsTheDecodedInstruction : Prop :=
  ∀ (s : State) (i : Instr), s.run = .running → s.pc.toNat + 2 ≤ 4096 → i.WellFormed →
    decode (s.mem.readBytes s.pc.toNat 2) = .ok (i, []) →
    step s = match exec i { s with ir := s.wordAtPC, result := .ok, beep := false } with
      | .next t => .next (if t.run = .running then t.tick else t)
      | .fault r => .fault r
      | .refused r => .refused r

/-- R121 (decision D17 for what a fault leaves): the fetch reads the two bytes at PC, high byte first, if
both are in memory; else the step raises AddressingError, and IR keeps its old value. -/
def Obligations.FetchReadsTwoBytesOrFaults : Prop :=
  ∀ s : State,
    (s.pc.toNat + 2 ≤ 4096 →
      s.fetch = .ok (s.mem.read s.pc.toNat ++ s.mem.read (s.pc.toNat + 1))) ∧
    (s.pc.toNat + 2 > 4096 → s.fetch = .error .addressingError ∧
      (s.run = .running → ∃ t, step s = .next t ∧ FaultTaken .addressingError s t))

/-- R122, R25 (decision D20): after a step IR is the word fetched, whether or not it decoded or executed,
and its old value where nothing was fetched. -/
def Obligations.InstructionRegisterHoldsTheFetchedWord : Prop :=
  ∀ s t : State, step s = .next t →
    t.ir = if s.run = .running ∧ s.pc.toNat + 2 ≤ 4096 then s.wordAtPC else s.ir

/-- R123 (decisions D17, D18): an illegal word halts the machine with UnknownOpcode; nothing but IR, RUN
and the outputs is written, and PC still points at the word. -/
def Obligations.UnknownWordHalts : Prop :=
  ∀ (s : State) (e : DecodeError), s.run = .running → s.pc.toNat + 2 ≤ 4096 →
    decodeWord s.wordAtPC = .error e →
    ∃ t, step s = .next t ∧ t.ir = s.wordAtPC ∧ t.pc = s.pc ∧ t.run = .halted .unknownOpcode ∧
      t.result = .fault .unknownOpcode ∧ t.beep = false ∧
      ChangesOnly (fun p => p = .ir ∨ faultParts p) s t

/-- R129, R252 (decision D18): however many steps a halted machine is given, nothing changes; the outputs
are Halted and no beep. -/
def Obligations.HaltedMachineStaysHalted : Prop :=
  ∀ (k : Nat) (s : State) (f : HaltReason), s.run = .halted f →
    ∃ t, core.run k s = .next t ∧ ChangesOnly (fun p => p = .result ∨ p = .beep) s t ∧
      (k ≥ 1 → t.result = .halted ∧ t.beep = false)

/-- R250 (decision D17): a step that raises a fault writes RUN and the outputs, and IR if the fetch
succeeded, and nothing else: not PC, no register, no byte, no pixel, and no timer ticks. -/
def Obligations.FaultEntryChangesNothingElse : Prop :=
  ∀ (s t : State) (f : HaltReason), s.run = .running → step s = .next t → t.run = .halted f →
    t.result = .fault f ∧ t.beep = false ∧
    ChangesOnly (fun p => faultParts p ∨ (p = .ir ∧ s.pc.toNat + 2 ≤ 4096)) s t

/-- R245, R251, R254 (decisions D16, D18, and D19 for the codes): a step of a running machine always answers
a next state, and it is halted for reason f exactly where the table's condition for f holds of the state
before; the halt code it then shows is the table's, and 0 exactly where no condition holds. -/
def Obligations.StepFaultsExactlyAsTheTableSays : Prop :=
  ∀ s : State, s.run = .running →
    ∃ t, step s = .next t ∧
      (∀ f : HaltReason, t.run = .halted f ↔ stepFault s f) ∧
      (t.haltCode = 0 ↔ ∀ f : HaltReason, ¬ stepFault s f) ∧
      (t.haltCode = 1 ↔ stepFault s .unknownOpcode) ∧
      (t.haltCode = 2 ↔ stepFault s .addressingError) ∧
      (t.haltCode = 3 ↔ stepFault s .stackOverflow) ∧
      (t.haltCode = 4 ↔ stepFault s .stackUnderflow)

/-- R126, R127, R291 (decisions D17, D27): a step that raises no fault ticks each timer once, after the
execute phase, so on the value LD DT or LD ST wrote in it; it beeps exactly when that left ST = 1. -/
def Obligations.TimersTickOncePerStep : Prop :=
  ∀ (s t : State) (i : Instr), s.run = .running → step s = .next t → t.run = .running →
    decodeWord s.wordAtPC = .ok i →
    (∀ x, i = .ldDTVx x → t.dt.toNat = (s.reg x).toNat - 1) ∧
    ((∀ x, i ≠ .ldDTVx x) → t.dt.toNat = s.dt.toNat - 1) ∧
    (∀ x, i = .ldSTVx x →
      t.st.toNat = (s.reg x).toNat - 1 ∧ (t.beep = true ↔ (s.reg x).toNat = 1)) ∧
    ((∀ x, i ≠ .ldSTVx x) → t.st.toNat = s.st.toNat - 1 ∧ (t.beep = true ↔ s.st.toNat = 1))

/-- R132: the draw matters only where the instruction executed is RND. The model's draw counter (log entry
1) stands for the input `rnd`: another counter gives the same step, but for the counter itself. -/
def Obligations.DrawsMatterOnlyToRnd : Prop :=
  ∀ (s t : State) (n : Nat), (∀ x kk, decodeWord s.wordAtPC ≠ .ok (.rnd x kk)) → step s = .next t →
    t.draws = s.draws ∧ step { s with draws := n } = .next { t with draws := n }

/-- R25 (decision D20): no instruction reads IR and no rule's result depends on it: two states that differ
in IR alone step to states that differ at most in IR. -/
def Obligations.NothingReadsTheInstructionRegister : Prop :=
  ∀ (s t : State) (w : Word), step s = .next t →
    ∃ t', step { s with ir := w } = .next t' ∧ ChangesOnly (fun p => p = .ir) t t'

/-! ## Invariants -/

/-- Every step keeps R23's bounds on PC and the stack slots in use, and the canonical form of memory. That
form is the model's choice (log entry 5); of R60 it holds the bound on addresses, 4096. -/
def Obligations.StepKeepsTheInvariant : Prop :=
  ∀ s t : State, s.Inv → step s = .next t → t.Inv

/-- The state after reset meets every invariant. The agreement of the outputs rests on the reset value of
`result`, and the invariant of memory on its canonical form: both are the model's choice (log entries 2
and 5). -/
def Obligations.ResetMeetsTheInvariants : Prop :=
  State.reset.Inv ∧ State.reset.FaultExplained ∧ State.reset.OutputsAgree

/-- Every host operation, in any order, keeps the three invariants (R35, R252, R74). Where the operation is
Reset, the agreement of the outputs rests on the reset value of `result`, and the invariant of memory
rests on its canonical form: both are the model's choice (log entries 2 and 5). -/
def Obligations.HostOperationsKeepTheInvariants : Prop :=
  ∀ (op : HostOp) (s t : State) (reply : HostReply), hostOp op s = .next (t, reply) →
    (s.Inv → t.Inv) ∧ (s.FaultExplained → t.FaultExplained) ∧ (s.OutputsAgree → t.OutputsAgree)

/-- R249: a halted machine's own PC, IR, I and SP show the condition that halted it, from the faulting step
on and for ever. -/
def Obligations.StepKeepsFaultsExplained : Prop :=
  ∀ s t : State, s.FaultExplained → step s = .next t → t.FaultExplained

/-- R128, R250 (decisions D17, D27): after every step, whatever the outputs were before, the outputs agree
with RUN. -/
def Obligations.StepOutputsAgreeWithRun : Prop :=
  ∀ s t : State, step s = .next t → t.OutputsAgree

/-! ## Who writes what -/

/-- R21, R40: a step changes a general register only if its instruction names it as destination, or it is
VF and the instruction writes the flag. -/
def Obligations.RegistersHaveOnlyTheirWriters : Prop :=
  ∀ (s t : State) (r : RegIdx), step s = .next t → t.reg r ≠ s.reg r →
    ∃ i, decodeWord s.wordAtPC = .ok i ∧
      (isDestination r i ∨ (r = 0xF ∧ ((arithmeticFlag s i).isSome = true ∨ ∃ x y n, i = .drw x y n)))

/-- R24: I is written by LD I, ADD I and LD F and by nothing else. -/
def Obligations.IndexRegisterHasThreeWriters : Prop :=
  ∀ s t : State, step s = .next t → t.i ≠ s.i →
    ∃ i, decodeWord s.wordAtPC = .ok i ∧
      ((∃ nnn, i = .ldI nnn) ∨ (∃ x, i = .addI x) ∨ ∃ x, i = .ldF x)

/-- R26, R27: a slot is written only by CALL, and only the slot at SP; SP is written only by CALL and RET,
by one. -/
def Obligations.StackHasTwoWriters : Prop :=
  ∀ s t : State, step s = .next t →
    (∀ k, t.slot k ≠ s.slot k → k.val = s.sp.val ∧ ∃ nnn, decodeWord s.wordAtPC = .ok (.call nnn)) ∧
    (t.sp ≠ s.sp →
      (t.sp.val = s.sp.val + 1 ∧ ∃ nnn, decodeWord s.wordAtPC = .ok (.call nnn)) ∨
      (t.sp.val + 1 = s.sp.val ∧ decodeWord s.wordAtPC = .ok .ret))

/-- R30, R31: a pixel is changed only by CLS and DRW, and no step ever writes a key latch. -/
def Obligations.ScreenAndKeysHaveOnlyTheirWriters : Prop :=
  ∀ s t : State, step s = .next t →
    (∀ r c, t.pixel r c ≠ s.pixel r c →
      decodeWord s.wordAtPC = .ok .cls ∨ ∃ x y n, decodeWord s.wordAtPC = .ok (.drw x y n)) ∧
    ∀ k, t.key k = s.key k

/-- R60, R70: a step changes a byte of memory only if its instruction stores at I, and then only a byte of
the range it stores to, which lies inside memory. -/
def Obligations.MemoryHasTwoWriters : Prop :=
  ∀ (s t : State) (a : Nat), step s = .next t → t.mem.read a ≠ s.mem.read a →
    ∃ i, decodeWord s.wordAtPC = .ok i ∧ s.base ≤ a ∧ a < s.base + storeLength i ∧ a < 4096

/-- R40: VF after every instruction but DRW: the flag of the table for the five that write it, unchanged
for every other one that does not name VF as its destination. -/
def Obligations.FlagRegisterAfterEveryInstruction : Prop :=
  ∀ (i : Instr) (s t : State), exec i s = .next t → (∀ x y n, i ≠ .drw x y n) →
    match arithmeticFlag s i with
    | some f => t.vf.toNat = f
    | none => ¬ isDestination 0xF i → t.vf = s.vf

/-! ## Control flow -/

/-- R141 (decisions D3, D4): SYS advances PC and does nothing else, whatever nnn is. -/
def Obligations.SysOnlyAdvances : Prop :=
  ∀ (nnn : Addr12) (s : State),
    Completes (.sys nnn) s fun t => t.pc = s.pc + 2 ∧ ChangesOnly (fun p => p = .pc) s t

/-- R145: `1nnn` sets PC to nnn, and nothing else changes. -/
def Obligations.JumpSetsPC : Prop :=
  ∀ (nnn : Addr12) (s : State), DecodesAs (0x1000 + nnn.toNat) (.jp nnn) ∧
    Completes (.jp nnn) s fun t =>
      t.pc.toNat = nnn.toNat ∧ ChangesOnly (fun p => p = .pc) s t

/-- R157 (decision D14): `Bnnn` sets PC to nnn + V[0], not reduced to 12 bits. -/
def Obligations.IndexedJumpAddsRegisterZero : Prop :=
  ∀ (nnn : Addr12) (s : State), DecodesAs (0xB000 + nnn.toNat) (.jpV0 nnn) ∧
    Completes (.jpV0 nnn) s fun t =>
      t.pc.toNat = nnn.toNat + (s.reg 0).toNat ∧ ChangesOnly (fun p => p = .pc) s t

/-- R149, R151 (decision D30): `3xkk` and `5xy0` skip one instruction if the two values are equal. -/
def Obligations.SkipIfEqual : Prop :=
  ∀ (x y : RegIdx) (kk : Byte) (s : State),
    (DecodesAs (0x3000 + x.toNat * 256 + kk.toNat) (.seImm x kk) ∧
      Completes (.seImm x kk) s fun t =>
        t.pc = (if (s.reg x).toNat = kk.toNat then s.pc + 4 else s.pc + 2) ∧
        ChangesOnly (fun p => p = .pc) s t) ∧
    (DecodesAs (0x5000 + x.toNat * 256 + y.toNat * 16) (.seReg x y) ∧
      Completes (.seReg x y) s fun t =>
        t.pc = (if (s.reg x).toNat = (s.reg y).toNat then s.pc + 4 else s.pc + 2) ∧
        ChangesOnly (fun p => p = .pc) s t)

/-- R150, R152 (decision D30): `4xkk` and `9xy0` skip one instruction if the two values differ. -/
def Obligations.SkipIfNotEqual : Prop :=
  ∀ (x y : RegIdx) (kk : Byte) (s : State),
    (DecodesAs (0x4000 + x.toNat * 256 + kk.toNat) (.sneImm x kk) ∧
      Completes (.sneImm x kk) s fun t =>
        t.pc = (if (s.reg x).toNat = kk.toNat then s.pc + 2 else s.pc + 4) ∧
        ChangesOnly (fun p => p = .pc) s t) ∧
    (DecodesAs (0x9000 + x.toNat * 256 + y.toNat * 16) (.sneReg x y) ∧
      Completes (.sneReg x y) s fun t =>
        t.pc = (if (s.reg x).toNat = (s.reg y).toNat then s.pc + 2 else s.pc + 4) ∧
        ChangesOnly (fun p => p = .pc) s t)

/-- R146 (decision D15): with a slot free, CALL writes PC + 2 to the slot at SP, adds one to SP and sets PC
to nnn; no other slot and nothing else changes. -/
def Obligations.CallPushesAndJumps : Prop :=
  ∀ (nnn : Addr12) (s : State) (k : Fin 16), s.sp.val = k.val →
    DecodesAs (0x2000 + nnn.toNat) (.call nnn) ∧
    Completes (.call nnn) s fun t =>
      t.slot k = s.pc + 2 ∧ t.sp.val = s.sp.val + 1 ∧ t.pc.toNat = nnn.toNat ∧
      ChangesOnly (fun p => p = .pc ∨ p = .sp ∨ p = .slot k) s t

/-- R144 (decision D15): with a slot in use, RET takes one from SP and sets PC to the value of the slot
popped, as it is; the slot keeps its value. -/
def Obligations.ReturnPopsIntoPC : Prop :=
  ∀ (s : State) (k : Fin 16), s.sp.val = k.val + 1 →
    DecodesAs 0x00EE .ret ∧
    Completes .ret s fun t =>
      t.pc = s.slot k ∧ t.sp.val = k.val ∧ ChangesOnly (fun p => p = .pc ∨ p = .sp) s t

/-- R247, R248 (decision D16): CALL with SP = 16 takes StackOverflow, RET with SP = 0 takes StackUnderflow,
before any write. -/
def Obligations.StackBoundsAreFaults : Prop :=
  ∀ (nnn : Addr12) (s : State),
    (s.sp.val = 16 → ∃ t, exec (.call nnn) s = .next t ∧ FaultTaken .stackOverflow s t) ∧
    (s.sp.val = 0 → ∃ t, exec .ret s = .next t ∧ FaultTaken .stackUnderflow s t)

/-- R142, R144, R146 (decision D15): a RET right after a CALL that found a slot free resumes at the
instruction after the CALL, with the stack pointer as before. -/
def Obligations.ReturnResumesAfterCall : Prop :=
  ∀ (nnn : Addr12) (s t : State), s.sp.val < 16 → exec (.call nnn) s = .next t →
    Completes .ret t fun u =>
      u.pc = s.pc + 2 ∧ ChangesOnly (fun p => p = .pc ∨ ∃ k, p = .slot k ∧ k.val = s.sp.val) s u

/-! ## Registers and arithmetic -/

/-- R162, R164: `6xkk` loads kk, `8xy0` loads V[y]; no flag, VF being an ordinary destination. -/
def Obligations.LoadsReplaceTheDestination : Prop :=
  ∀ (x y : RegIdx) (kk : Byte) (s : State),
    (DecodesAs (0x6000 + x.toNat * 256 + kk.toNat) (.ldImm x kk) ∧
      Completes (.ldImm x kk) s fun t =>
        t.reg x = kk ∧ t.pc = s.pc + 2 ∧ ChangesOnly (fun p => p = .reg x ∨ p = .pc) s t) ∧
    (DecodesAs (0x8000 + x.toNat * 256 + y.toNat * 16) (.ldReg x y) ∧
      Completes (.ldReg x y) s fun t =>
        t.reg x = s.reg y ∧ t.pc = s.pc + 2 ∧ ChangesOnly (fun p => p = .reg x ∨ p = .pc) s t)

/-- R163: `7xkk` adds kk modulo 256 and writes no flag; with x = 0xF, VF receives the sum. -/
def Obligations.AddImmediateWrapsWithoutFlag : Prop :=
  ∀ (x : RegIdx) (kk : Byte) (s : State),
    DecodesAs (0x7000 + x.toNat * 256 + kk.toNat) (.addImm x kk) ∧
    Completes (.addImm x kk) s fun t =>
      (t.reg x).toNat = ((s.reg x).toNat + kk.toNat) % 256 ∧ t.pc = s.pc + 2 ∧
      ChangesOnly (fun p => p = .reg x ∨ p = .pc) s t

/-- R166, R168, R170: the three bitwise forms, bit by bit; VF is not written as a side effect. -/
def Obligations.BitwiseFormsLeaveTheFlag : Prop :=
  ∀ (x y : RegIdx) (s : State),
    (DecodesAs (0x8001 + x.toNat * 256 + y.toNat * 16) (.orReg x y) ∧
      Completes (.orReg x y) s fun t =>
        (∀ j, (t.reg x).getLsbD j = ((s.reg x).getLsbD j || (s.reg y).getLsbD j)) ∧
        t.pc = s.pc + 2 ∧ ChangesOnly (fun p => p = .reg x ∨ p = .pc) s t) ∧
    (DecodesAs (0x8002 + x.toNat * 256 + y.toNat * 16) (.andReg x y) ∧
      Completes (.andReg x y) s fun t =>
        (∀ j, (t.reg x).getLsbD j = ((s.reg x).getLsbD j && (s.reg y).getLsbD j)) ∧
        t.pc = s.pc + 2 ∧ ChangesOnly (fun p => p = .reg x ∨ p = .pc) s t) ∧
    (DecodesAs (0x8003 + x.toNat * 256 + y.toNat * 16) (.xorReg x y) ∧
      Completes (.xorReg x y) s fun t =>
        (∀ j, (t.reg x).getLsbD j = ((s.reg x).getLsbD j ^^ (s.reg y).getLsbD j)) ∧
        t.pc = s.pc + 2 ∧ ChangesOnly (fun p => p = .reg x ∨ p = .pc) s t)

/-- R172: `8xy4` adds modulo 256 and writes the carry to VF; where x = 0xF the carry stays and the sum is
lost (the order of the writes is decision D10). -/
def Obligations.AddWritesCarry : Prop :=
  ∀ (x y : RegIdx) (s : State),
    DecodesAs (0x8004 + x.toNat * 256 + y.toNat * 16) (.addReg x y) ∧
    Completes (.addReg x y) s fun t =>
      (x ≠ 0xF → (t.reg x).toNat = ((s.reg x).toNat + (s.reg y).toNat) % 256) ∧
      t.vf.toNat = (if (s.reg x).toNat + (s.reg y).toNat > 255 then 1 else 0) ∧
      t.pc = s.pc + 2 ∧ ChangesOnly (fun p => p = .reg x ∨ p = .reg 0xF ∨ p = .pc) s t

/-- R174, R178: `8xy5` is V[x] - V[y] and `8xy7` is V[y] - V[x], modulo 256; VF is 1 exactly where no
borrow occurred; where x = 0xF the flag stays (decision D10). -/
def Obligations.SubtractionsWriteNotBorrow : Prop :=
  ∀ (x y : RegIdx) (s : State),
    (DecodesAs (0x8005 + x.toNat * 256 + y.toNat * 16) (.subReg x y) ∧
      Completes (.subReg x y) s fun t =>
        (x ≠ 0xF → ((t.reg x).toNat : Int) = ((s.reg x).toNat - (s.reg y).toNat : Int) % 256) ∧
        t.vf.toNat = (if (s.reg x).toNat ≥ (s.reg y).toNat then 1 else 0) ∧
        t.pc = s.pc + 2 ∧ ChangesOnly (fun p => p = .reg x ∨ p = .reg 0xF ∨ p = .pc) s t) ∧
    (DecodesAs (0x8007 + x.toNat * 256 + y.toNat * 16) (.subn x y) ∧
      Completes (.subn x y) s fun t =>
        (x ≠ 0xF → ((t.reg x).toNat : Int) = ((s.reg y).toNat - (s.reg x).toNat : Int) % 256) ∧
        t.vf.toNat = (if (s.reg y).toNat ≥ (s.reg x).toNat then 1 else 0) ∧
        t.pc = s.pc + 2 ∧ ChangesOnly (fun p => p = .reg x ∨ p = .reg 0xF ∨ p = .pc) s t)

/-- R176, R180 (decisions D10, D11): `8xy6` and `8xyE` shift V[x] in place by one and write the bit shifted
out to VF; y plays no part. -/
def Obligations.ShiftsWriteTheBitShiftedOut : Prop :=
  ∀ (x y : RegIdx) (s : State),
    (DecodesAs (0x8006 + x.toNat * 256 + y.toNat * 16) (.shr x y) ∧
      Completes (.shr x y) s fun t =>
        (x ≠ 0xF → (t.reg x).toNat = (s.reg x).toNat / 2) ∧ t.vf.toNat = (s.reg x).toNat % 2 ∧
        t.pc = s.pc + 2 ∧ ChangesOnly (fun p => p = .reg x ∨ p = .reg 0xF ∨ p = .pc) s t) ∧
    (DecodesAs (0x800E + x.toNat * 256 + y.toNat * 16) (.shl x y) ∧
      Completes (.shl x y) s fun t =>
        (x ≠ 0xF → (t.reg x).toNat = (s.reg x).toNat * 2 % 256) ∧
        t.vf.toNat = (s.reg x).toNat / 128 ∧
        t.pc = s.pc + 2 ∧ ChangesOnly (fun p => p = .reg x ∨ p = .reg 0xF ∨ p = .pc) s t)

/-- R186 (decision D13, log entry 1): `Cxkk` writes the draw AND kk, for whatever byte the environment
supplies; the byte of this step is the free value at the model's counter, which moves on. -/
def Obligations.RandomLoadMasksTheDraw : Prop :=
  ∀ (x : RegIdx) (kk : Byte) (s : State),
    DecodesAs (0xC000 + x.toNat * 256 + kk.toNat) (.rnd x kk) ∧
    Completes (.rnd x kk) s fun t =>
      (∀ j, (t.reg x).getLsbD j = (s.draw.getLsbD j && kk.getLsbD j)) ∧ t.draws = s.draws + 1 ∧
      t.pc = s.pc + 2 ∧ ChangesOnly (fun p => p = .reg x ∨ p = .pc ∨ p = .draws) s t

/-! ## Index register and memory -/

/-- R191: `Annn` loads nnn into I. -/
def Obligations.LoadIndexSetsI : Prop :=
  ∀ (nnn : Addr12) (s : State), DecodesAs (0xA000 + nnn.toNat) (.ldI nnn) ∧
    Completes (.ldI nnn) s fun t =>
      t.i.toNat = nnn.toNat ∧ t.pc = s.pc + 2 ∧ ChangesOnly (fun p => p = .index ∨ p = .pc) s t

/-- R193, R195 (decisions D7, D8): `Fx1E` adds V[x] to I modulo 65536 without a flag; `Fx29` sets I to
5 * V[x], not masked. -/
def Obligations.IndexArithmetic : Prop :=
  ∀ (x : RegIdx) (s : State),
    (DecodesAs (0xF01E + x.toNat * 256) (.addI x) ∧
      Completes (.addI x) s fun t =>
        t.i.toNat = (s.i.toNat + (s.reg x).toNat) % 65536 ∧ t.pc = s.pc + 2 ∧
        ChangesOnly (fun p => p = .index ∨ p = .pc) s t) ∧
    (DecodesAs (0xF029 + x.toNat * 256) (.ldF x) ∧
      Completes (.ldF x) s fun t =>
        t.i.toNat = 5 * (s.reg x).toNat ∧ t.pc = s.pc + 2 ∧
        ChangesOnly (fun p => p = .index ∨ p = .pc) s t)

/-- R197 (decision D17 for the fault): `Fx33` writes hundreds, tens and ones of V[x] at I, I+1, I+2; where
I + 3 > 4096 it takes AddressingError and no byte is written. -/
def Obligations.StoreDecimalDigits : Prop :=
  ∀ (x : RegIdx) (s : State), DecodesAs (0xF033 + x.toNat * 256) (.ldB x) ∧
    (s.base + 3 ≤ 4096 → Completes (.ldB x) s fun t =>
      (t.mem.read s.base).toNat = (s.reg x).toNat / 100 ∧
      (t.mem.read (s.base + 1)).toNat = (s.reg x).toNat / 10 % 10 ∧
      (t.mem.read (s.base + 2)).toNat = (s.reg x).toNat % 10 ∧ t.pc = s.pc + 2 ∧
      ChangesOnly (fun p => p = .pc ∨ ∃ a, p = .byte a ∧ s.base ≤ a ∧ a < s.base + 3) s t) ∧
    (s.base + 3 > 4096 → ∃ t, exec (.ldB x) s = .next t ∧ FaultTaken .addressingError s t)

/-- R199 (decisions D9, D17): `Fx55` stores V[0] to V[x] at I and up and leaves I; where I + x + 1 > 4096 it
takes AddressingError and no byte is written. -/
def Obligations.StoreRegisterBlock : Prop :=
  ∀ (x : RegIdx) (s : State), DecodesAs (0xF055 + x.toNat * 256) (.ldMemVx x) ∧
    (s.base + x.toNat + 1 ≤ 4096 → Completes (.ldMemVx x) s fun t =>
      (∀ r : RegIdx, r.toNat ≤ x.toNat → t.mem.read (s.base + r.toNat) = s.reg r) ∧ t.pc = s.pc + 2 ∧
      ChangesOnly (fun p => p = .pc ∨ ∃ a, p = .byte a ∧ s.base ≤ a ∧ a ≤ s.base + x.toNat) s t) ∧
    (s.base + x.toNat + 1 > 4096 →
      ∃ t, exec (.ldMemVx x) s = .next t ∧ FaultTaken .addressingError s t)

/-- R201 (decisions D9, D17): `Fx65` loads V[0] to V[x] from I and up and leaves I and memory; where
I + x + 1 > 4096 it takes AddressingError and no register is written. -/
def Obligations.LoadRegisterBlock : Prop :=
  ∀ (x : RegIdx) (s : State), DecodesAs (0xF065 + x.toNat * 256) (.ldVxMem x) ∧
    (s.base + x.toNat + 1 ≤ 4096 → Completes (.ldVxMem x) s fun t =>
      (∀ r : RegIdx, r.toNat ≤ x.toNat → t.reg r = s.mem.read (s.base + r.toNat)) ∧ t.pc = s.pc + 2 ∧
      ChangesOnly (fun p => p = .pc ∨ ∃ r : RegIdx, p = .reg r ∧ r.toNat ≤ x.toNat) s t) ∧
    (s.base + x.toNat + 1 > 4096 →
      ∃ t, exec (.ldVxMem x) s = .next t ∧ FaultTaken .addressingError s t)

/-- R80, R68: bytes stored over the instruction at the new PC are the word the next step fetches, the
lower-numbered register its high byte. -/
def Obligations.StoredBytesAreFetchedNext : Prop :=
  ∀ (x k : RegIdx) (s t : State), exec (.ldMemVx x) s = .next t → s.base + x.toNat + 1 ≤ 4096 →
    k.toNat + 1 ≤ x.toNat → t.pc.toNat = s.base + k.toNat →
    t.fetch = .ok (s.reg k ++ s.reg (k + 1))

/-! ## Memory primitives -/

/-- R64: a write of n bytes, n at least 1, writes byte k at a + k for every k and nothing else, or, where
a + n > 4096, is an AddressingError. -/
def Obligations.WritesAreWholeOrFault : Prop :=
  ∀ (s : State) (a : Nat) (bs : List Byte), bs.length ≥ 1 →
    if a + bs.length ≤ 4096 then
      ∃ t, s.memWrite a bs = .ok t ∧
        (∀ k (h : k < bs.length), t.mem.read (a + k) = bs[k]) ∧
        ChangesOnly (fun p => ∃ c, p = .byte c ∧ a ≤ c ∧ c < a + bs.length) s t
    else s.memWrite a bs = .error .addressingError

/-- R63: a read of n bytes, n at least 1, answers byte k from a + k, or, where a + n > 4096, is an
AddressingError. -/
def Obligations.ReadsAreWholeOrFault : Prop :=
  ∀ (s : State) (a n : Nat), n ≥ 1 →
    if a + n ≤ 4096 then
      ∃ bytes, s.memRead a n = .ok bytes ∧ bytes.length = n ∧
        ∀ k (h : k < bytes.length), bytes[k] = s.mem.read (a + k)
    else s.memRead a n = .error .addressingError

/-! ## Display -/

/-- R212: `00E0` turns every pixel off; VF is unchanged. -/
def Obligations.ClearTurnsEveryPixelOff : Prop :=
  ∀ s : State, DecodesAs 0x00E0 .cls ∧
    Completes .cls s fun t =>
      (∀ r c, t.pixel r c = false) ∧ t.pc = s.pc + 2 ∧
      ChangesOnly (fun p => p = .pc ∨ ∃ r c, p = .pixel r c) s t

/-- R214, with the wrap of R216 and the set form of R217 (decision D17 for the fault): DRW toggles exactly
the pixels under 1 bits of the sprite; VF is 1 exactly where one of them was on before; where n is at
least 1 and I + n > 4096 it takes AddressingError and no pixel changes. -/
def Obligations.DrawTogglesTheSpritePixels : Prop :=
  ∀ (x y : RegIdx) (n : Height) (s : State),
    DecodesAs (0xD000 + x.toNat * 256 + y.toNat * 16 + n.toNat) (.drw x y n) ∧
    (¬ accessFaults s.base n.toNat → Completes (.drw x y n) s fun t =>
      (∀ r c,
        (spriteBit s (s.reg x).toNat (s.reg y).toNat n.toNat r c → t.pixel r c = !s.pixel r c) ∧
        (¬ spriteBit s (s.reg x).toNat (s.reg y).toNat n.toNat r c → t.pixel r c = s.pixel r c)) ∧
      ((∃ r c, spriteBit s (s.reg x).toNat (s.reg y).toNat n.toNat r c ∧ s.pixel r c = true) →
        t.vf = 1) ∧
      ((∀ r c, spriteBit s (s.reg x).toNat (s.reg y).toNat n.toNat r c → s.pixel r c = false) →
        t.vf = 0) ∧
      t.pc = s.pc + 2 ∧
      ChangesOnly (fun p => p = .pc ∨ p = .reg 0xF ∨ ∃ r c, p = .pixel r c) s t) ∧
    (accessFaults s.base n.toNat →
      ∃ t, exec (.drw x y n) s = .next t ∧ FaultTaken .addressingError s t)

/-- R219: the same sprite drawn twice at the same position (VF not a coordinate) restores the screen, and
the second draw's VF is 1 exactly where some 1 bit fell on a pixel that was off before the first. -/
def Obligations.DrawingTwiceRestoresTheScreen : Prop :=
  ∀ (x y : RegIdx) (n : Height) (s t u : State), x ≠ 0xF → y ≠ 0xF → ¬ accessFaults s.base n.toNat →
    exec (.drw x y n) s = .next t → exec (.drw x y n) t = .next u →
    (∀ r c, u.pixel r c = s.pixel r c) ∧
    (u.vf = 1 ↔
      ∃ r c, spriteBit s (s.reg x).toNat (s.reg y).toNat n.toNat r c ∧ s.pixel r c = false)

/-! ## Keyboard and timers -/

/-- R226, R228 (decision D12): SKP skips if the key of V[x]'s low nibble is pressed, SKNP if it is not; no
latch is cleared. -/
def Obligations.KeySkipsTestTheLatch : Prop :=
  ∀ (x : RegIdx) (k : KeyIdx) (s : State), k.toNat = (s.reg x).toNat % 16 →
    (DecodesAs (0xE09E + x.toNat * 256) (.skp x) ∧
      Completes (.skp x) s fun t =>
        t.pc = (if s.key k = true then s.pc + 4 else s.pc + 2) ∧ ChangesOnly (fun p => p = .pc) s t) ∧
    (DecodesAs (0xE0A1 + x.toNat * 256) (.sknp x) ∧
      Completes (.sknp x) s fun t =>
        t.pc = (if s.key k = true then s.pc + 2 else s.pc + 4) ∧ ChangesOnly (fun p => p = .pc) s t)

/-- R238: the scan answers the lowest-numbered pressed key, or none where no key is pressed. -/
def Obligations.KeyScanFindsTheLowestPressed : Prop :=
  ∀ s : State,
    (∀ k, s.anyPressed = some k ↔
      s.key k = true ∧ ∀ j : KeyIdx, j.toNat < k.toNat → s.key j = false) ∧
    (s.anyPressed = none ↔ ∀ k, s.key k = false)

/-- R230 (decision D27 for the outputs): with a key down, `Fx0A` captures the lowest one and advances; with
none, PC stays, and the step is a full one: it reports Waiting, the timers tick and can beep, nothing
else changes. -/
def Obligations.KeyWaitRepeatsUntilAKey : Prop :=
  ∀ (x : RegIdx) (s : State), DecodesAs (0xF00A + x.toNat * 256) (.ldVxK x) ∧
    (∀ k, s.key k = true → (∀ j : KeyIdx, j.toNat < k.toNat → s.key j = false) →
      Completes (.ldVxK x) s fun t =>
        (t.reg x).toNat = k.toNat ∧ t.pc = s.pc + 2 ∧
        ChangesOnly (fun p => p = .reg x ∨ p = .pc) s t) ∧
    ((∀ k, s.key k = false) →
      (Completes (.ldVxK x) s fun t =>
        t.pc = s.pc ∧ t.result = .waiting ∧ ChangesOnly (fun p => p = .result) s t) ∧
      (s.run = .running → s.pc.toNat + 2 ≤ 4096 → decodeWord s.wordAtPC = .ok (.ldVxK x) →
        ∃ t, step s = .next t ∧ t.result = .waiting ∧ t.dt.toNat = s.dt.toNat - 1 ∧
          t.st.toNat = s.st.toNat - 1 ∧ (t.beep = true ↔ s.st.toNat = 1) ∧
          ChangesOnly (fun p => p = .ir ∨ p = .dt ∨ p = .st ∨ p = .result ∨ p = .beep) s t))

/-- R232, R234, R236, the execute phase: `Fx07` reads DT, `Fx15` sets DT and `Fx18` sets ST; the tick that
follows in the same step is TimersTickOncePerStep. -/
def Obligations.TimerTransfers : Prop :=
  ∀ (x : RegIdx) (s : State),
    (DecodesAs (0xF007 + x.toNat * 256) (.ldVxDT x) ∧
      Completes (.ldVxDT x) s fun t =>
        t.reg x = s.dt ∧ t.pc = s.pc + 2 ∧ ChangesOnly (fun p => p = .reg x ∨ p = .pc) s t) ∧
    (DecodesAs (0xF015 + x.toNat * 256) (.ldDTVx x) ∧
      Completes (.ldDTVx x) s fun t =>
        t.dt = s.reg x ∧ t.pc = s.pc + 2 ∧ ChangesOnly (fun p => p = .dt ∨ p = .pc) s t) ∧
    (DecodesAs (0xF018 + x.toNat * 256) (.ldSTVx x) ∧
      Completes (.ldSTVx x) s fun t =>
        t.st = s.reg x ∧ t.pc = s.pc + 2 ∧ ChangesOnly (fun p => p = .st ∨ p = .pc) s t)

/-! ## Host operations -/

/-- R74 (decision D28): at most 3584 bytes are written to 0x200 and up and nothing else changes; more are a
ProgramLoadError and nothing changes at all. -/
def Obligations.LoadProgramIsABlockWrite : Prop :=
  ∀ (s : State) (bytes : List Byte),
    (bytes.length ≤ 3584 → ∃ t, hostOp (.loadProgram bytes) s = .next (t, .loaded) ∧
      (∀ k (h : k < bytes.length), t.mem.read (0x200 + k) = bytes[k]) ∧
      ChangesOnly (fun p => ∃ a, p = .byte a ∧ 0x200 ≤ a ∧ a < 0x200 + bytes.length) s t) ∧
    (bytes.length > 3584 → hostOp (.loadProgram bytes) s = .next (s, .programLoadError))

/-- R240: SetKey sets one latch and changes nothing else. -/
def Obligations.SetKeyWritesOneLatch : Prop :=
  ∀ (s : State) (k : KeyIdx) (b : Bool),
    ∃ t, hostOp (.setKey k b) s = .next (t, .nothing) ∧ t.key k = b ∧
      ChangesOnly (fun p => p = .key k) s t

/-- R221: ReadPixels returns the 2048 pixels in row-major order and changes nothing. -/
def Obligations.ReadPixelsIsRowMajor : Prop :=
  ∀ s : State, ∃ px : List Bool, hostOp .readPixels s = .next (s, .pixels px) ∧ px.length = 2048 ∧
    ∀ (r : Fin 32) (c : Fin 64), px[r.val * 64 + c.val]? = some (s.pixel r c)

/-- R38, R280 (decisions D6, D21, D22): Reset, in any state, gives the state of R38, which is also the
model's `State.reset` in every piece of the spec's state. -/
def Obligations.ResetGivesTheStateOfTheTable : Prop :=
  ∀ s : State, ∃ t, hostOp .reset s = .next (t, .nothing) ∧
    ChangesOnly (fun p => p = .draws) State.reset t ∧
    t.run = .running ∧ t.pc = 0x0200 ∧ t.i = 0 ∧ t.ir = 0 ∧ t.sp.val = 0 ∧ t.dt = 0 ∧ t.st = 0 ∧
    t.beep = false ∧ (∀ r, t.reg r = 0) ∧ (∀ k, t.slot k = 0) ∧ (∀ r c, t.pixel r c = false) ∧
    (∀ k, t.key k = false) ∧ (∀ a, a ≥ 0x050 → t.mem.read a = 0) ∧
    (List.range 80).map t.mem.read =
      [0xF0, 0x90, 0x90, 0x90, 0xF0, 0x20, 0x60, 0x20, 0x20, 0x70, 0xF0, 0x10, 0xF0, 0x80, 0xF0, 0xF0,
       0x10, 0xF0, 0x10, 0xF0, 0x90, 0x90, 0xF0, 0x10, 0x10, 0xF0, 0x80, 0xF0, 0x10, 0xF0, 0xF0, 0x80,
       0xF0, 0x90, 0xF0, 0xF0, 0x10, 0x20, 0x40, 0x40, 0xF0, 0x90, 0xF0, 0x90, 0xF0, 0xF0, 0x90, 0xF0] ++
      [0x10, 0xF0, 0xF0, 0x90, 0xF0, 0x90, 0x90, 0xE0, 0x90, 0xE0, 0x90, 0xE0, 0xF0, 0x80, 0x80, 0x80,
       0xF0, 0xE0, 0x90, 0x90, 0x90, 0xE0, 0xF0, 0x80, 0xF0, 0x80, 0xF0, 0xF0, 0x80, 0xF0, 0x80, 0x80]
end

