-- ==== Sys2Proof/Laws/Decode.lean ====
section
/-! SUPPORT. The fields of a word built by a format, and a word put together again from its fields. Both
directions go through the numbers the bits spell. -/

namespace Sys2Proof

/-! ## Fields and formats as numbers -/

theorem toNat_append {m n : Nat} (a : BitVec m) (b : BitVec n) :
    (a ++ b).toNat = a.toNat * 2 ^ n + b.toNat := by
  rw [BitVec.toNat_append, ← Nat.shiftLeft_add_eq_or_of_lt b.isLt, Nat.shiftLeft_eq]

theorem opOf_toNat (w : Word) : (opOf w).toNat = w.toNat / 4096 := by
  have := w.isLt
  simp only [opOf, BitVec.extractLsb'_toNat, Nat.shiftRight_eq_div_pow]; omega

theorem xOf_toNat (w : Word) : (xOf w).toNat = w.toNat / 256 % 16 := by
  simp only [xOf, BitVec.extractLsb'_toNat, Nat.shiftRight_eq_div_pow, Nat.reducePow]

theorem yOf_toNat (w : Word) : (yOf w).toNat = w.toNat / 16 % 16 := by
  simp only [yOf, BitVec.extractLsb'_toNat, Nat.shiftRight_eq_div_pow, Nat.reducePow]

theorem nOf_toNat (w : Word) : (nOf w).toNat = w.toNat % 16 := by
  simp only [nOf, BitVec.extractLsb'_toNat, Nat.shiftRight_eq_div_pow]; omega

theorem kkOf_toNat (w : Word) : (kkOf w).toNat = w.toNat % 256 := by
  simp only [kkOf, BitVec.extractLsb'_toNat, Nat.shiftRight_eq_div_pow]; omega

theorem nnnOf_toNat (w : Word) : (nnnOf w).toNat = w.toNat % 4096 := by
  simp only [nnnOf, BitVec.extractLsb'_toNat, Nat.shiftRight_eq_div_pow]; omega

theorem formatNNN_toNat (op : BitVec 4) (nnn : Addr12) :
    (formatNNN op nnn).toNat = op.toNat * 4096 + nnn.toNat := toNat_append op nnn

theorem formatXKK_toNat (op : BitVec 4) (x : RegIdx) (kk : Byte) :
    (formatXKK op x kk).toNat = op.toNat * 4096 + (x.toNat * 256 + kk.toNat) := by
  exact (toNat_append op (x ++ kk)).trans (by rw [toNat_append x kk]; rfl)

theorem formatXYN_toNat (op : BitVec 4) (x y : RegIdx) (n : BitVec 4) :
    (formatXYN op x y n).toNat = op.toNat * 4096 + (x.toNat * 256 + (y.toNat * 16 + n.toNat)) := by
  exact (toNat_append op (x ++ (y ++ n))).trans (by rw [toNat_append x (y ++ n), toNat_append y n]; rfl)

theorem wordOfBytes_toNat (hi lo : Byte) : (wordOfBytes hi lo).toNat = hi.toNat * 256 + lo.toNat :=
  toNat_append hi lo

/-! ## Fields of a format -/

@[simp] theorem opOf_formatNNN (op : BitVec 4) (nnn : Addr12) : opOf (formatNNN op nnn) = op := by
  apply BitVec.eq_of_toNat_eq; rw [opOf_toNat, formatNNN_toNat]; omega

@[simp] theorem nnnOf_formatNNN (op : BitVec 4) (nnn : Addr12) : nnnOf (formatNNN op nnn) = nnn := by
  apply BitVec.eq_of_toNat_eq; rw [nnnOf_toNat, formatNNN_toNat]; omega

@[simp] theorem opOf_formatXKK (op : BitVec 4) (x : RegIdx) (kk : Byte) :
    opOf (formatXKK op x kk) = op := by
  apply BitVec.eq_of_toNat_eq; rw [opOf_toNat, formatXKK_toNat]; omega

@[simp] theorem xOf_formatXKK (op : BitVec 4) (x : RegIdx) (kk : Byte) :
    xOf (formatXKK op x kk) = x := by
  apply BitVec.eq_of_toNat_eq; rw [xOf_toNat, formatXKK_toNat]; omega

@[simp] theorem kkOf_formatXKK (op : BitVec 4) (x : RegIdx) (kk : Byte) :
    kkOf (formatXKK op x kk) = kk := by
  apply BitVec.eq_of_toNat_eq; rw [kkOf_toNat, formatXKK_toNat]; omega

@[simp] theorem opOf_formatXYN (op : BitVec 4) (x y : RegIdx) (n : BitVec 4) :
    opOf (formatXYN op x y n) = op := by
  apply BitVec.eq_of_toNat_eq; rw [opOf_toNat, formatXYN_toNat]; omega

@[simp] theorem xOf_formatXYN (op : BitVec 4) (x y : RegIdx) (n : BitVec 4) :
    xOf (formatXYN op x y n) = x := by
  apply BitVec.eq_of_toNat_eq; rw [xOf_toNat, formatXYN_toNat]; omega

@[simp] theorem yOf_formatXYN (op : BitVec 4) (x y : RegIdx) (n : BitVec 4) :
    yOf (formatXYN op x y n) = y := by
  apply BitVec.eq_of_toNat_eq; rw [yOf_toNat, formatXYN_toNat]; omega

@[simp] theorem nOf_formatXYN (op : BitVec 4) (x y : RegIdx) (n : BitVec 4) :
    nOf (formatXYN op x y n) = n := by
  apply BitVec.eq_of_toNat_eq; rw [nOf_toNat, formatXYN_toNat]; omega

/-! ## Masks -/

theorem formatNNN_and (op op' : BitVec 4) (nnn nnn' : Addr12) :
    formatNNN op nnn &&& formatNNN op' nnn' = formatNNN (op &&& op') (nnn &&& nnn') :=
  BitVec.and_append

theorem formatXKK_and (op op' : BitVec 4) (x x' : RegIdx) (kk kk' : Byte) :
    formatXKK op x kk &&& formatXKK op' x' kk' = formatXKK (op &&& op') (x &&& x') (kk &&& kk') :=
  BitVec.and_append.trans (by rw [BitVec.and_append]; rfl)

theorem formatXYN_and (op op' : BitVec 4) (x x' y y' : RegIdx) (n n' : BitVec 4) :
    formatXYN op x y n &&& formatXYN op' x' y' n' =
      formatXYN (op &&& op') (x &&& x') (y &&& y') (n &&& n') :=
  BitVec.and_append.trans (by rw [BitVec.and_append, BitVec.and_append]; rfl)

/-! ## Words from their fields -/

theorem formatNNN_fields (w : Word) : formatNNN (opOf w) (nnnOf w) = w := by
  apply BitVec.eq_of_toNat_eq; rw [formatNNN_toNat, opOf_toNat, nnnOf_toNat]; omega

theorem formatXKK_fields (w : Word) : formatXKK (opOf w) (xOf w) (kkOf w) = w := by
  apply BitVec.eq_of_toNat_eq; rw [formatXKK_toNat, opOf_toNat, xOf_toNat, kkOf_toNat]; omega

theorem formatXYN_fields (w : Word) : formatXYN (opOf w) (xOf w) (yOf w) (nOf w) = w := by
  apply BitVec.eq_of_toNat_eq; rw [formatXYN_toNat, opOf_toNat, xOf_toNat, yOf_toNat, nOf_toNat]; omega

/-! ## Bytes -/

@[simp] theorem wordOfBytes_halves (w : Word) :
    wordOfBytes (w.extractLsb' 8 8) (w.extractLsb' 0 8) = w := by
  have := w.isLt
  apply BitVec.eq_of_toNat_eq
  simp only [wordOfBytes_toNat, BitVec.extractLsb'_toNat, Nat.shiftRight_eq_div_pow]
  omega

/-- Decoding the two bytes of a word, whatever follows them. -/
theorem decode_bytesOfWord (w : Word) (rest : List Byte) :
    decode (bytesOfWord w ++ rest) = (decodeWord w).map (fun i => (i, rest)) := by
  simp only [bytesOfWord, List.cons_append, List.nil_append, decode, wordOfBytes_halves]
  cases decodeWord w <;> rfl

end Sys2Proof
end

