-- ==== Sys2Proof/Laws/State.lean ====
section
/-! SUPPORT. One lemma per field per update of State, and per accessor an update leaves alone, each true
by rfl. -/

namespace Sys2Proof.Machine

/-! ## setReg -/

@[simp] theorem State.setReg_v (s : State) (x : RegIdx) (b : Byte) : (s.setReg x b).v = s.v.set x.toNat b x.isLt := rfl
@[simp] theorem State.setReg_pc (s : State) (x : RegIdx) (b : Byte) : (s.setReg x b).pc = s.pc := rfl
@[simp] theorem State.setReg_i (s : State) (x : RegIdx) (b : Byte) : (s.setReg x b).i = s.i := rfl
@[simp] theorem State.setReg_ir (s : State) (x : RegIdx) (b : Byte) : (s.setReg x b).ir = s.ir := rfl
@[simp] theorem State.setReg_run (s : State) (x : RegIdx) (b : Byte) : (s.setReg x b).run = s.run := rfl
@[simp] theorem State.setReg_stack (s : State) (x : RegIdx) (b : Byte) : (s.setReg x b).stack = s.stack := rfl
@[simp] theorem State.setReg_sp (s : State) (x : RegIdx) (b : Byte) : (s.setReg x b).sp = s.sp := rfl
@[simp] theorem State.setReg_dt (s : State) (x : RegIdx) (b : Byte) : (s.setReg x b).dt = s.dt := rfl
@[simp] theorem State.setReg_st (s : State) (x : RegIdx) (b : Byte) : (s.setReg x b).st = s.st := rfl
@[simp] theorem State.setReg_fb (s : State) (x : RegIdx) (b : Byte) : (s.setReg x b).fb = s.fb := rfl
@[simp] theorem State.setReg_keys (s : State) (x : RegIdx) (b : Byte) : (s.setReg x b).keys = s.keys := rfl
@[simp] theorem State.setReg_mem (s : State) (x : RegIdx) (b : Byte) : (s.setReg x b).mem = s.mem := rfl
@[simp] theorem State.setReg_result (s : State) (x : RegIdx) (b : Byte) : (s.setReg x b).result = s.result := rfl
@[simp] theorem State.setReg_beep (s : State) (x : RegIdx) (b : Byte) : (s.setReg x b).beep = s.beep := rfl
@[simp] theorem State.setReg_draws (s : State) (x : RegIdx) (b : Byte) : (s.setReg x b).draws = s.draws := rfl
@[simp] theorem State.setReg_slot (s : State) (x : RegIdx) (b : Byte) (j : Fin 16) : (s.setReg x b).slot j = s.slot j := rfl
@[simp] theorem State.setReg_key (s : State) (x : RegIdx) (b : Byte) (j : KeyIdx) : (s.setReg x b).key j = s.key j := rfl
@[simp] theorem State.setReg_pixel (s : State) (x : RegIdx) (b : Byte) (row : Fin 32) (col : Fin 64) : (s.setReg x b).pixel row col = s.pixel row col := rfl

/-! ## setPC -/

@[simp] theorem State.setPC_v (s : State) (t : Word) : (s.setPC t).v = s.v := rfl
@[simp] theorem State.setPC_pc (s : State) (t : Word) : (s.setPC t).pc = t := rfl
@[simp] theorem State.setPC_i (s : State) (t : Word) : (s.setPC t).i = s.i := rfl
@[simp] theorem State.setPC_ir (s : State) (t : Word) : (s.setPC t).ir = s.ir := rfl
@[simp] theorem State.setPC_run (s : State) (t : Word) : (s.setPC t).run = s.run := rfl
@[simp] theorem State.setPC_stack (s : State) (t : Word) : (s.setPC t).stack = s.stack := rfl
@[simp] theorem State.setPC_sp (s : State) (t : Word) : (s.setPC t).sp = s.sp := rfl
@[simp] theorem State.setPC_dt (s : State) (t : Word) : (s.setPC t).dt = s.dt := rfl
@[simp] theorem State.setPC_st (s : State) (t : Word) : (s.setPC t).st = s.st := rfl
@[simp] theorem State.setPC_fb (s : State) (t : Word) : (s.setPC t).fb = s.fb := rfl
@[simp] theorem State.setPC_keys (s : State) (t : Word) : (s.setPC t).keys = s.keys := rfl
@[simp] theorem State.setPC_mem (s : State) (t : Word) : (s.setPC t).mem = s.mem := rfl
@[simp] theorem State.setPC_result (s : State) (t : Word) : (s.setPC t).result = s.result := rfl
@[simp] theorem State.setPC_beep (s : State) (t : Word) : (s.setPC t).beep = s.beep := rfl
@[simp] theorem State.setPC_draws (s : State) (t : Word) : (s.setPC t).draws = s.draws := rfl
@[simp] theorem State.setPC_reg (s : State) (t : Word) (r : RegIdx) : (s.setPC t).reg r = s.reg r := rfl
@[simp] theorem State.setPC_slot (s : State) (t : Word) (j : Fin 16) : (s.setPC t).slot j = s.slot j := rfl
@[simp] theorem State.setPC_key (s : State) (t : Word) (j : KeyIdx) : (s.setPC t).key j = s.key j := rfl
@[simp] theorem State.setPC_pixel (s : State) (t : Word) (row : Fin 32) (col : Fin 64) : (s.setPC t).pixel row col = s.pixel row col := rfl

/-! ## advance -/

@[simp] theorem State.advance_v (s : State) : (s.advance).v = s.v := rfl
@[simp] theorem State.advance_pc (s : State) : (s.advance).pc = s.pc + 2 := rfl
@[simp] theorem State.advance_i (s : State) : (s.advance).i = s.i := rfl
@[simp] theorem State.advance_ir (s : State) : (s.advance).ir = s.ir := rfl
@[simp] theorem State.advance_run (s : State) : (s.advance).run = s.run := rfl
@[simp] theorem State.advance_stack (s : State) : (s.advance).stack = s.stack := rfl
@[simp] theorem State.advance_sp (s : State) : (s.advance).sp = s.sp := rfl
@[simp] theorem State.advance_dt (s : State) : (s.advance).dt = s.dt := rfl
@[simp] theorem State.advance_st (s : State) : (s.advance).st = s.st := rfl
@[simp] theorem State.advance_fb (s : State) : (s.advance).fb = s.fb := rfl
@[simp] theorem State.advance_keys (s : State) : (s.advance).keys = s.keys := rfl
@[simp] theorem State.advance_mem (s : State) : (s.advance).mem = s.mem := rfl
@[simp] theorem State.advance_result (s : State) : (s.advance).result = s.result := rfl
@[simp] theorem State.advance_beep (s : State) : (s.advance).beep = s.beep := rfl
@[simp] theorem State.advance_draws (s : State) : (s.advance).draws = s.draws := rfl
@[simp] theorem State.advance_reg (s : State) (r : RegIdx) : (s.advance).reg r = s.reg r := rfl
@[simp] theorem State.advance_slot (s : State) (j : Fin 16) : (s.advance).slot j = s.slot j := rfl
@[simp] theorem State.advance_key (s : State) (j : KeyIdx) : (s.advance).key j = s.key j := rfl
@[simp] theorem State.advance_pixel (s : State) (row : Fin 32) (col : Fin 64) : (s.advance).pixel row col = s.pixel row col := rfl

/-! ## skipIf -/

@[simp] theorem State.skipIf_v (s : State) (c : Bool) : (s.skipIf c).v = s.v := rfl
@[simp] theorem State.skipIf_pc (s : State) (c : Bool) : (s.skipIf c).pc = if c then s.pc + 4 else s.pc + 2 := rfl
@[simp] theorem State.skipIf_i (s : State) (c : Bool) : (s.skipIf c).i = s.i := rfl
@[simp] theorem State.skipIf_ir (s : State) (c : Bool) : (s.skipIf c).ir = s.ir := rfl
@[simp] theorem State.skipIf_run (s : State) (c : Bool) : (s.skipIf c).run = s.run := rfl
@[simp] theorem State.skipIf_stack (s : State) (c : Bool) : (s.skipIf c).stack = s.stack := rfl
@[simp] theorem State.skipIf_sp (s : State) (c : Bool) : (s.skipIf c).sp = s.sp := rfl
@[simp] theorem State.skipIf_dt (s : State) (c : Bool) : (s.skipIf c).dt = s.dt := rfl
@[simp] theorem State.skipIf_st (s : State) (c : Bool) : (s.skipIf c).st = s.st := rfl
@[simp] theorem State.skipIf_fb (s : State) (c : Bool) : (s.skipIf c).fb = s.fb := rfl
@[simp] theorem State.skipIf_keys (s : State) (c : Bool) : (s.skipIf c).keys = s.keys := rfl
@[simp] theorem State.skipIf_mem (s : State) (c : Bool) : (s.skipIf c).mem = s.mem := rfl
@[simp] theorem State.skipIf_result (s : State) (c : Bool) : (s.skipIf c).result = s.result := rfl
@[simp] theorem State.skipIf_beep (s : State) (c : Bool) : (s.skipIf c).beep = s.beep := rfl
@[simp] theorem State.skipIf_draws (s : State) (c : Bool) : (s.skipIf c).draws = s.draws := rfl
@[simp] theorem State.skipIf_reg (s : State) (c : Bool) (r : RegIdx) : (s.skipIf c).reg r = s.reg r := rfl
@[simp] theorem State.skipIf_slot (s : State) (c : Bool) (j : Fin 16) : (s.skipIf c).slot j = s.slot j := rfl
@[simp] theorem State.skipIf_key (s : State) (c : Bool) (j : KeyIdx) : (s.skipIf c).key j = s.key j := rfl
@[simp] theorem State.skipIf_pixel (s : State) (c : Bool) (row : Fin 32) (col : Fin 64) : (s.skipIf c).pixel row col = s.pixel row col := rfl

/-! ## setI -/

@[simp] theorem State.setI_v (s : State) (t : Word) : (s.setI t).v = s.v := rfl
@[simp] theorem State.setI_pc (s : State) (t : Word) : (s.setI t).pc = s.pc := rfl
@[simp] theorem State.setI_i (s : State) (t : Word) : (s.setI t).i = t := rfl
@[simp] theorem State.setI_ir (s : State) (t : Word) : (s.setI t).ir = s.ir := rfl
@[simp] theorem State.setI_run (s : State) (t : Word) : (s.setI t).run = s.run := rfl
@[simp] theorem State.setI_stack (s : State) (t : Word) : (s.setI t).stack = s.stack := rfl
@[simp] theorem State.setI_sp (s : State) (t : Word) : (s.setI t).sp = s.sp := rfl
@[simp] theorem State.setI_dt (s : State) (t : Word) : (s.setI t).dt = s.dt := rfl
@[simp] theorem State.setI_st (s : State) (t : Word) : (s.setI t).st = s.st := rfl
@[simp] theorem State.setI_fb (s : State) (t : Word) : (s.setI t).fb = s.fb := rfl
@[simp] theorem State.setI_keys (s : State) (t : Word) : (s.setI t).keys = s.keys := rfl
@[simp] theorem State.setI_mem (s : State) (t : Word) : (s.setI t).mem = s.mem := rfl
@[simp] theorem State.setI_result (s : State) (t : Word) : (s.setI t).result = s.result := rfl
@[simp] theorem State.setI_beep (s : State) (t : Word) : (s.setI t).beep = s.beep := rfl
@[simp] theorem State.setI_draws (s : State) (t : Word) : (s.setI t).draws = s.draws := rfl
@[simp] theorem State.setI_reg (s : State) (t : Word) (r : RegIdx) : (s.setI t).reg r = s.reg r := rfl
@[simp] theorem State.setI_slot (s : State) (t : Word) (j : Fin 16) : (s.setI t).slot j = s.slot j := rfl
@[simp] theorem State.setI_key (s : State) (t : Word) (j : KeyIdx) : (s.setI t).key j = s.key j := rfl
@[simp] theorem State.setI_pixel (s : State) (t : Word) (row : Fin 32) (col : Fin 64) : (s.setI t).pixel row col = s.pixel row col := rfl

/-! ## setFB -/

@[simp] theorem State.setFB_v (s : State) (fb : Frame) : (s.setFB fb).v = s.v := rfl
@[simp] theorem State.setFB_pc (s : State) (fb : Frame) : (s.setFB fb).pc = s.pc := rfl
@[simp] theorem State.setFB_i (s : State) (fb : Frame) : (s.setFB fb).i = s.i := rfl
@[simp] theorem State.setFB_ir (s : State) (fb : Frame) : (s.setFB fb).ir = s.ir := rfl
@[simp] theorem State.setFB_run (s : State) (fb : Frame) : (s.setFB fb).run = s.run := rfl
@[simp] theorem State.setFB_stack (s : State) (fb : Frame) : (s.setFB fb).stack = s.stack := rfl
@[simp] theorem State.setFB_sp (s : State) (fb : Frame) : (s.setFB fb).sp = s.sp := rfl
@[simp] theorem State.setFB_dt (s : State) (fb : Frame) : (s.setFB fb).dt = s.dt := rfl
@[simp] theorem State.setFB_st (s : State) (fb : Frame) : (s.setFB fb).st = s.st := rfl
@[simp] theorem State.setFB_fb (s : State) (fb : Frame) : (s.setFB fb).fb = fb := rfl
@[simp] theorem State.setFB_keys (s : State) (fb : Frame) : (s.setFB fb).keys = s.keys := rfl
@[simp] theorem State.setFB_mem (s : State) (fb : Frame) : (s.setFB fb).mem = s.mem := rfl
@[simp] theorem State.setFB_result (s : State) (fb : Frame) : (s.setFB fb).result = s.result := rfl
@[simp] theorem State.setFB_beep (s : State) (fb : Frame) : (s.setFB fb).beep = s.beep := rfl
@[simp] theorem State.setFB_draws (s : State) (fb : Frame) : (s.setFB fb).draws = s.draws := rfl
@[simp] theorem State.setFB_reg (s : State) (fb : Frame) (r : RegIdx) : (s.setFB fb).reg r = s.reg r := rfl
@[simp] theorem State.setFB_slot (s : State) (fb : Frame) (j : Fin 16) : (s.setFB fb).slot j = s.slot j := rfl
@[simp] theorem State.setFB_key (s : State) (fb : Frame) (j : KeyIdx) : (s.setFB fb).key j = s.key j := rfl

/-! ## setDT -/

@[simp] theorem State.setDT_v (s : State) (b : Byte) : (s.setDT b).v = s.v := rfl
@[simp] theorem State.setDT_pc (s : State) (b : Byte) : (s.setDT b).pc = s.pc := rfl
@[simp] theorem State.setDT_i (s : State) (b : Byte) : (s.setDT b).i = s.i := rfl
@[simp] theorem State.setDT_ir (s : State) (b : Byte) : (s.setDT b).ir = s.ir := rfl
@[simp] theorem State.setDT_run (s : State) (b : Byte) : (s.setDT b).run = s.run := rfl
@[simp] theorem State.setDT_stack (s : State) (b : Byte) : (s.setDT b).stack = s.stack := rfl
@[simp] theorem State.setDT_sp (s : State) (b : Byte) : (s.setDT b).sp = s.sp := rfl
@[simp] theorem State.setDT_dt (s : State) (b : Byte) : (s.setDT b).dt = b := rfl
@[simp] theorem State.setDT_st (s : State) (b : Byte) : (s.setDT b).st = s.st := rfl
@[simp] theorem State.setDT_fb (s : State) (b : Byte) : (s.setDT b).fb = s.fb := rfl
@[simp] theorem State.setDT_keys (s : State) (b : Byte) : (s.setDT b).keys = s.keys := rfl
@[simp] theorem State.setDT_mem (s : State) (b : Byte) : (s.setDT b).mem = s.mem := rfl
@[simp] theorem State.setDT_result (s : State) (b : Byte) : (s.setDT b).result = s.result := rfl
@[simp] theorem State.setDT_beep (s : State) (b : Byte) : (s.setDT b).beep = s.beep := rfl
@[simp] theorem State.setDT_draws (s : State) (b : Byte) : (s.setDT b).draws = s.draws := rfl
@[simp] theorem State.setDT_reg (s : State) (b : Byte) (r : RegIdx) : (s.setDT b).reg r = s.reg r := rfl
@[simp] theorem State.setDT_slot (s : State) (b : Byte) (j : Fin 16) : (s.setDT b).slot j = s.slot j := rfl
@[simp] theorem State.setDT_key (s : State) (b : Byte) (j : KeyIdx) : (s.setDT b).key j = s.key j := rfl
@[simp] theorem State.setDT_pixel (s : State) (b : Byte) (row : Fin 32) (col : Fin 64) : (s.setDT b).pixel row col = s.pixel row col := rfl

/-! ## setST -/

@[simp] theorem State.setST_v (s : State) (b : Byte) : (s.setST b).v = s.v := rfl
@[simp] theorem State.setST_pc (s : State) (b : Byte) : (s.setST b).pc = s.pc := rfl
@[simp] theorem State.setST_i (s : State) (b : Byte) : (s.setST b).i = s.i := rfl
@[simp] theorem State.setST_ir (s : State) (b : Byte) : (s.setST b).ir = s.ir := rfl
@[simp] theorem State.setST_run (s : State) (b : Byte) : (s.setST b).run = s.run := rfl
@[simp] theorem State.setST_stack (s : State) (b : Byte) : (s.setST b).stack = s.stack := rfl
@[simp] theorem State.setST_sp (s : State) (b : Byte) : (s.setST b).sp = s.sp := rfl
@[simp] theorem State.setST_dt (s : State) (b : Byte) : (s.setST b).dt = s.dt := rfl
@[simp] theorem State.setST_st (s : State) (b : Byte) : (s.setST b).st = b := rfl
@[simp] theorem State.setST_fb (s : State) (b : Byte) : (s.setST b).fb = s.fb := rfl
@[simp] theorem State.setST_keys (s : State) (b : Byte) : (s.setST b).keys = s.keys := rfl
@[simp] theorem State.setST_mem (s : State) (b : Byte) : (s.setST b).mem = s.mem := rfl
@[simp] theorem State.setST_result (s : State) (b : Byte) : (s.setST b).result = s.result := rfl
@[simp] theorem State.setST_beep (s : State) (b : Byte) : (s.setST b).beep = s.beep := rfl
@[simp] theorem State.setST_draws (s : State) (b : Byte) : (s.setST b).draws = s.draws := rfl
@[simp] theorem State.setST_reg (s : State) (b : Byte) (r : RegIdx) : (s.setST b).reg r = s.reg r := rfl
@[simp] theorem State.setST_slot (s : State) (b : Byte) (j : Fin 16) : (s.setST b).slot j = s.slot j := rfl
@[simp] theorem State.setST_key (s : State) (b : Byte) (j : KeyIdx) : (s.setST b).key j = s.key j := rfl
@[simp] theorem State.setST_pixel (s : State) (b : Byte) (row : Fin 32) (col : Fin 64) : (s.setST b).pixel row col = s.pixel row col := rfl

/-! ## putBytes -/

@[simp] theorem State.putBytes_v (s : State) (a : Nat) (bs : List Byte) : (s.putBytes a bs).v = s.v := rfl
@[simp] theorem State.putBytes_pc (s : State) (a : Nat) (bs : List Byte) : (s.putBytes a bs).pc = s.pc := rfl
@[simp] theorem State.putBytes_i (s : State) (a : Nat) (bs : List Byte) : (s.putBytes a bs).i = s.i := rfl
@[simp] theorem State.putBytes_ir (s : State) (a : Nat) (bs : List Byte) : (s.putBytes a bs).ir = s.ir := rfl
@[simp] theorem State.putBytes_run (s : State) (a : Nat) (bs : List Byte) : (s.putBytes a bs).run = s.run := rfl
@[simp] theorem State.putBytes_stack (s : State) (a : Nat) (bs : List Byte) : (s.putBytes a bs).stack = s.stack := rfl
@[simp] theorem State.putBytes_sp (s : State) (a : Nat) (bs : List Byte) : (s.putBytes a bs).sp = s.sp := rfl
@[simp] theorem State.putBytes_dt (s : State) (a : Nat) (bs : List Byte) : (s.putBytes a bs).dt = s.dt := rfl
@[simp] theorem State.putBytes_st (s : State) (a : Nat) (bs : List Byte) : (s.putBytes a bs).st = s.st := rfl
@[simp] theorem State.putBytes_fb (s : State) (a : Nat) (bs : List Byte) : (s.putBytes a bs).fb = s.fb := rfl
@[simp] theorem State.putBytes_keys (s : State) (a : Nat) (bs : List Byte) : (s.putBytes a bs).keys = s.keys := rfl
@[simp] theorem State.putBytes_mem (s : State) (a : Nat) (bs : List Byte) : (s.putBytes a bs).mem = s.mem.writeBytes a bs := rfl
@[simp] theorem State.putBytes_result (s : State) (a : Nat) (bs : List Byte) : (s.putBytes a bs).result = s.result := rfl
@[simp] theorem State.putBytes_beep (s : State) (a : Nat) (bs : List Byte) : (s.putBytes a bs).beep = s.beep := rfl
@[simp] theorem State.putBytes_draws (s : State) (a : Nat) (bs : List Byte) : (s.putBytes a bs).draws = s.draws := rfl
@[simp] theorem State.putBytes_reg (s : State) (a : Nat) (bs : List Byte) (r : RegIdx) : (s.putBytes a bs).reg r = s.reg r := rfl
@[simp] theorem State.putBytes_slot (s : State) (a : Nat) (bs : List Byte) (j : Fin 16) : (s.putBytes a bs).slot j = s.slot j := rfl
@[simp] theorem State.putBytes_key (s : State) (a : Nat) (bs : List Byte) (j : KeyIdx) : (s.putBytes a bs).key j = s.key j := rfl
@[simp] theorem State.putBytes_pixel (s : State) (a : Nat) (bs : List Byte) (row : Fin 32) (col : Fin 64) : (s.putBytes a bs).pixel row col = s.pixel row col := rfl

/-! ## setVF -/

@[simp] theorem State.setVF_v (s : State) (f : Byte) : (s.setVF f).v = (s.setReg Config.flagReg f).v := rfl
@[simp] theorem State.setVF_pc (s : State) (f : Byte) : (s.setVF f).pc = s.pc := rfl
@[simp] theorem State.setVF_i (s : State) (f : Byte) : (s.setVF f).i = s.i := rfl
@[simp] theorem State.setVF_ir (s : State) (f : Byte) : (s.setVF f).ir = s.ir := rfl
@[simp] theorem State.setVF_run (s : State) (f : Byte) : (s.setVF f).run = s.run := rfl
@[simp] theorem State.setVF_stack (s : State) (f : Byte) : (s.setVF f).stack = s.stack := rfl
@[simp] theorem State.setVF_sp (s : State) (f : Byte) : (s.setVF f).sp = s.sp := rfl
@[simp] theorem State.setVF_dt (s : State) (f : Byte) : (s.setVF f).dt = s.dt := rfl
@[simp] theorem State.setVF_st (s : State) (f : Byte) : (s.setVF f).st = s.st := rfl
@[simp] theorem State.setVF_fb (s : State) (f : Byte) : (s.setVF f).fb = s.fb := rfl
@[simp] theorem State.setVF_keys (s : State) (f : Byte) : (s.setVF f).keys = s.keys := rfl
@[simp] theorem State.setVF_mem (s : State) (f : Byte) : (s.setVF f).mem = s.mem := rfl
@[simp] theorem State.setVF_result (s : State) (f : Byte) : (s.setVF f).result = s.result := rfl
@[simp] theorem State.setVF_beep (s : State) (f : Byte) : (s.setVF f).beep = s.beep := rfl
@[simp] theorem State.setVF_draws (s : State) (f : Byte) : (s.setVF f).draws = s.draws := rfl
@[simp] theorem State.setVF_slot (s : State) (f : Byte) (j : Fin 16) : (s.setVF f).slot j = s.slot j := rfl
@[simp] theorem State.setVF_key (s : State) (f : Byte) (j : KeyIdx) : (s.setVF f).key j = s.key j := rfl
@[simp] theorem State.setVF_pixel (s : State) (f : Byte) (row : Fin 32) (col : Fin 64) : (s.setVF f).pixel row col = s.pixel row col := rfl

/-! ## setResultFlag -/

@[simp] theorem State.setResultFlag_v (s : State) (x : RegIdx) (result flag : Byte) : (s.setResultFlag x result flag).v = ((s.setReg x result).setVF flag).v := rfl
@[simp] theorem State.setResultFlag_pc (s : State) (x : RegIdx) (result flag : Byte) : (s.setResultFlag x result flag).pc = s.pc := rfl
@[simp] theorem State.setResultFlag_i (s : State) (x : RegIdx) (result flag : Byte) : (s.setResultFlag x result flag).i = s.i := rfl
@[simp] theorem State.setResultFlag_ir (s : State) (x : RegIdx) (result flag : Byte) : (s.setResultFlag x result flag).ir = s.ir := rfl
@[simp] theorem State.setResultFlag_run (s : State) (x : RegIdx) (result flag : Byte) : (s.setResultFlag x result flag).run = s.run := rfl
@[simp] theorem State.setResultFlag_stack (s : State) (x : RegIdx) (result flag : Byte) : (s.setResultFlag x result flag).stack = s.stack := rfl
@[simp] theorem State.setResultFlag_sp (s : State) (x : RegIdx) (result flag : Byte) : (s.setResultFlag x result flag).sp = s.sp := rfl
@[simp] theorem State.setResultFlag_dt (s : State) (x : RegIdx) (result flag : Byte) : (s.setResultFlag x result flag).dt = s.dt := rfl
@[simp] theorem State.setResultFlag_st (s : State) (x : RegIdx) (result flag : Byte) : (s.setResultFlag x result flag).st = s.st := rfl
@[simp] theorem State.setResultFlag_fb (s : State) (x : RegIdx) (result flag : Byte) : (s.setResultFlag x result flag).fb = s.fb := rfl
@[simp] theorem State.setResultFlag_keys (s : State) (x : RegIdx) (result flag : Byte) : (s.setResultFlag x result flag).keys = s.keys := rfl
@[simp] theorem State.setResultFlag_mem (s : State) (x : RegIdx) (result flag : Byte) : (s.setResultFlag x result flag).mem = s.mem := rfl
@[simp] theorem State.setResultFlag_result (s : State) (x : RegIdx) (result flag : Byte) : (s.setResultFlag x result flag).result = s.result := rfl
@[simp] theorem State.setResultFlag_beep (s : State) (x : RegIdx) (result flag : Byte) : (s.setResultFlag x result flag).beep = s.beep := rfl
@[simp] theorem State.setResultFlag_draws (s : State) (x : RegIdx) (result flag : Byte) : (s.setResultFlag x result flag).draws = s.draws := rfl
@[simp] theorem State.setResultFlag_slot (s : State) (x : RegIdx) (result flag : Byte) (j : Fin 16) : (s.setResultFlag x result flag).slot j = s.slot j := rfl
@[simp] theorem State.setResultFlag_key (s : State) (x : RegIdx) (result flag : Byte) (j : KeyIdx) : (s.setResultFlag x result flag).key j = s.key j := rfl
@[simp] theorem State.setResultFlag_pixel (s : State) (x : RegIdx) (result flag : Byte) (row : Fin 32) (col : Fin 64) : (s.setResultFlag x result flag).pixel row col = s.pixel row col := rfl

/-! ## takeFault -/

@[simp] theorem State.takeFault_v (s : State) (f : HaltReason) : (s.takeFault f).v = s.v := rfl
@[simp] theorem State.takeFault_pc (s : State) (f : HaltReason) : (s.takeFault f).pc = s.pc := rfl
@[simp] theorem State.takeFault_i (s : State) (f : HaltReason) : (s.takeFault f).i = s.i := rfl
@[simp] theorem State.takeFault_ir (s : State) (f : HaltReason) : (s.takeFault f).ir = s.ir := rfl
@[simp] theorem State.takeFault_run (s : State) (f : HaltReason) : (s.takeFault f).run = .halted f := rfl
@[simp] theorem State.takeFault_stack (s : State) (f : HaltReason) : (s.takeFault f).stack = s.stack := rfl
@[simp] theorem State.takeFault_sp (s : State) (f : HaltReason) : (s.takeFault f).sp = s.sp := rfl
@[simp] theorem State.takeFault_dt (s : State) (f : HaltReason) : (s.takeFault f).dt = s.dt := rfl
@[simp] theorem State.takeFault_st (s : State) (f : HaltReason) : (s.takeFault f).st = s.st := rfl
@[simp] theorem State.takeFault_fb (s : State) (f : HaltReason) : (s.takeFault f).fb = s.fb := rfl
@[simp] theorem State.takeFault_keys (s : State) (f : HaltReason) : (s.takeFault f).keys = s.keys := rfl
@[simp] theorem State.takeFault_mem (s : State) (f : HaltReason) : (s.takeFault f).mem = s.mem := rfl
@[simp] theorem State.takeFault_result (s : State) (f : HaltReason) : (s.takeFault f).result = .fault f := rfl
@[simp] theorem State.takeFault_beep (s : State) (f : HaltReason) : (s.takeFault f).beep = false := rfl
@[simp] theorem State.takeFault_draws (s : State) (f : HaltReason) : (s.takeFault f).draws = s.draws := rfl
@[simp] theorem State.takeFault_reg (s : State) (f : HaltReason) (r : RegIdx) : (s.takeFault f).reg r = s.reg r := rfl
@[simp] theorem State.takeFault_slot (s : State) (f : HaltReason) (j : Fin 16) : (s.takeFault f).slot j = s.slot j := rfl
@[simp] theorem State.takeFault_key (s : State) (f : HaltReason) (j : KeyIdx) : (s.takeFault f).key j = s.key j := rfl
@[simp] theorem State.takeFault_pixel (s : State) (f : HaltReason) (row : Fin 32) (col : Fin 64) : (s.takeFault f).pixel row col = s.pixel row col := rfl

/-! ## latch -/

@[simp] theorem State.latch_v (s : State) (w : Word) : (s.latch w).v = s.v := rfl
@[simp] theorem State.latch_pc (s : State) (w : Word) : (s.latch w).pc = s.pc := rfl
@[simp] theorem State.latch_i (s : State) (w : Word) : (s.latch w).i = s.i := rfl
@[simp] theorem State.latch_ir (s : State) (w : Word) : (s.latch w).ir = w := rfl
@[simp] theorem State.latch_run (s : State) (w : Word) : (s.latch w).run = s.run := rfl
@[simp] theorem State.latch_stack (s : State) (w : Word) : (s.latch w).stack = s.stack := rfl
@[simp] theorem State.latch_sp (s : State) (w : Word) : (s.latch w).sp = s.sp := rfl
@[simp] theorem State.latch_dt (s : State) (w : Word) : (s.latch w).dt = s.dt := rfl
@[simp] theorem State.latch_st (s : State) (w : Word) : (s.latch w).st = s.st := rfl
@[simp] theorem State.latch_fb (s : State) (w : Word) : (s.latch w).fb = s.fb := rfl
@[simp] theorem State.latch_keys (s : State) (w : Word) : (s.latch w).keys = s.keys := rfl
@[simp] theorem State.latch_mem (s : State) (w : Word) : (s.latch w).mem = s.mem := rfl
@[simp] theorem State.latch_result (s : State) (w : Word) : (s.latch w).result = .ok := rfl
@[simp] theorem State.latch_beep (s : State) (w : Word) : (s.latch w).beep = false := rfl
@[simp] theorem State.latch_draws (s : State) (w : Word) : (s.latch w).draws = s.draws := rfl
@[simp] theorem State.latch_reg (s : State) (w : Word) (r : RegIdx) : (s.latch w).reg r = s.reg r := rfl
@[simp] theorem State.latch_slot (s : State) (w : Word) (j : Fin 16) : (s.latch w).slot j = s.slot j := rfl
@[simp] theorem State.latch_key (s : State) (w : Word) (j : KeyIdx) : (s.latch w).key j = s.key j := rfl
@[simp] theorem State.latch_pixel (s : State) (w : Word) (row : Fin 32) (col : Fin 64) : (s.latch w).pixel row col = s.pixel row col := rfl

/-! ## tick -/

@[simp] theorem State.tick_v (s : State) : (s.tick).v = s.v := rfl
@[simp] theorem State.tick_pc (s : State) : (s.tick).pc = s.pc := rfl
@[simp] theorem State.tick_i (s : State) : (s.tick).i = s.i := rfl
@[simp] theorem State.tick_ir (s : State) : (s.tick).ir = s.ir := rfl
@[simp] theorem State.tick_run (s : State) : (s.tick).run = s.run := rfl
@[simp] theorem State.tick_stack (s : State) : (s.tick).stack = s.stack := rfl
@[simp] theorem State.tick_sp (s : State) : (s.tick).sp = s.sp := rfl
@[simp] theorem State.tick_dt (s : State) : (s.tick).dt = countDown s.dt := rfl
@[simp] theorem State.tick_st (s : State) : (s.tick).st = countDown s.st := rfl
@[simp] theorem State.tick_fb (s : State) : (s.tick).fb = s.fb := rfl
@[simp] theorem State.tick_keys (s : State) : (s.tick).keys = s.keys := rfl
@[simp] theorem State.tick_mem (s : State) : (s.tick).mem = s.mem := rfl
@[simp] theorem State.tick_result (s : State) : (s.tick).result = s.result := rfl
@[simp] theorem State.tick_beep (s : State) : (s.tick).beep = decide (s.st = 1) := rfl
@[simp] theorem State.tick_draws (s : State) : (s.tick).draws = s.draws := rfl
@[simp] theorem State.tick_reg (s : State) (r : RegIdx) : (s.tick).reg r = s.reg r := rfl
@[simp] theorem State.tick_slot (s : State) (j : Fin 16) : (s.tick).slot j = s.slot j := rfl
@[simp] theorem State.tick_key (s : State) (j : KeyIdx) : (s.tick).key j = s.key j := rfl
@[simp] theorem State.tick_pixel (s : State) (row : Fin 32) (col : Fin 64) : (s.tick).pixel row col = s.pixel row col := rfl

/-! ## idle -/

@[simp] theorem State.idle_v (s : State) : (s.idle).v = s.v := rfl
@[simp] theorem State.idle_pc (s : State) : (s.idle).pc = s.pc := rfl
@[simp] theorem State.idle_i (s : State) : (s.idle).i = s.i := rfl
@[simp] theorem State.idle_ir (s : State) : (s.idle).ir = s.ir := rfl
@[simp] theorem State.idle_run (s : State) : (s.idle).run = s.run := rfl
@[simp] theorem State.idle_stack (s : State) : (s.idle).stack = s.stack := rfl
@[simp] theorem State.idle_sp (s : State) : (s.idle).sp = s.sp := rfl
@[simp] theorem State.idle_dt (s : State) : (s.idle).dt = s.dt := rfl
@[simp] theorem State.idle_st (s : State) : (s.idle).st = s.st := rfl
@[simp] theorem State.idle_fb (s : State) : (s.idle).fb = s.fb := rfl
@[simp] theorem State.idle_keys (s : State) : (s.idle).keys = s.keys := rfl
@[simp] theorem State.idle_mem (s : State) : (s.idle).mem = s.mem := rfl
@[simp] theorem State.idle_result (s : State) : (s.idle).result = .halted := rfl
@[simp] theorem State.idle_beep (s : State) : (s.idle).beep = false := rfl
@[simp] theorem State.idle_draws (s : State) : (s.idle).draws = s.draws := rfl
@[simp] theorem State.idle_reg (s : State) (r : RegIdx) : (s.idle).reg r = s.reg r := rfl
@[simp] theorem State.idle_slot (s : State) (j : Fin 16) : (s.idle).slot j = s.slot j := rfl
@[simp] theorem State.idle_key (s : State) (j : KeyIdx) : (s.idle).key j = s.key j := rfl
@[simp] theorem State.idle_pixel (s : State) (row : Fin 32) (col : Fin 64) : (s.idle).pixel row col = s.pixel row col := rfl

/-! ## wait -/

@[simp] theorem State.wait_v (s : State) : (s.wait).v = s.v := rfl
@[simp] theorem State.wait_pc (s : State) : (s.wait).pc = s.pc := rfl
@[simp] theorem State.wait_i (s : State) : (s.wait).i = s.i := rfl
@[simp] theorem State.wait_ir (s : State) : (s.wait).ir = s.ir := rfl
@[simp] theorem State.wait_run (s : State) : (s.wait).run = s.run := rfl
@[simp] theorem State.wait_stack (s : State) : (s.wait).stack = s.stack := rfl
@[simp] theorem State.wait_sp (s : State) : (s.wait).sp = s.sp := rfl
@[simp] theorem State.wait_dt (s : State) : (s.wait).dt = s.dt := rfl
@[simp] theorem State.wait_st (s : State) : (s.wait).st = s.st := rfl
@[simp] theorem State.wait_fb (s : State) : (s.wait).fb = s.fb := rfl
@[simp] theorem State.wait_keys (s : State) : (s.wait).keys = s.keys := rfl
@[simp] theorem State.wait_mem (s : State) : (s.wait).mem = s.mem := rfl
@[simp] theorem State.wait_result (s : State) : (s.wait).result = .waiting := rfl
@[simp] theorem State.wait_beep (s : State) : (s.wait).beep = s.beep := rfl
@[simp] theorem State.wait_draws (s : State) : (s.wait).draws = s.draws := rfl
@[simp] theorem State.wait_reg (s : State) (r : RegIdx) : (s.wait).reg r = s.reg r := rfl
@[simp] theorem State.wait_slot (s : State) (j : Fin 16) : (s.wait).slot j = s.slot j := rfl
@[simp] theorem State.wait_key (s : State) (j : KeyIdx) : (s.wait).key j = s.key j := rfl
@[simp] theorem State.wait_pixel (s : State) (row : Fin 32) (col : Fin 64) : (s.wait).pixel row col = s.pixel row col := rfl

/-! ## nextDraw -/

@[simp] theorem State.nextDraw_v (s : State) : (s.nextDraw).v = s.v := rfl
@[simp] theorem State.nextDraw_pc (s : State) : (s.nextDraw).pc = s.pc := rfl
@[simp] theorem State.nextDraw_i (s : State) : (s.nextDraw).i = s.i := rfl
@[simp] theorem State.nextDraw_ir (s : State) : (s.nextDraw).ir = s.ir := rfl
@[simp] theorem State.nextDraw_run (s : State) : (s.nextDraw).run = s.run := rfl
@[simp] theorem State.nextDraw_stack (s : State) : (s.nextDraw).stack = s.stack := rfl
@[simp] theorem State.nextDraw_sp (s : State) : (s.nextDraw).sp = s.sp := rfl
@[simp] theorem State.nextDraw_dt (s : State) : (s.nextDraw).dt = s.dt := rfl
@[simp] theorem State.nextDraw_st (s : State) : (s.nextDraw).st = s.st := rfl
@[simp] theorem State.nextDraw_fb (s : State) : (s.nextDraw).fb = s.fb := rfl
@[simp] theorem State.nextDraw_keys (s : State) : (s.nextDraw).keys = s.keys := rfl
@[simp] theorem State.nextDraw_mem (s : State) : (s.nextDraw).mem = s.mem := rfl
@[simp] theorem State.nextDraw_result (s : State) : (s.nextDraw).result = s.result := rfl
@[simp] theorem State.nextDraw_beep (s : State) : (s.nextDraw).beep = s.beep := rfl
@[simp] theorem State.nextDraw_draws (s : State) : (s.nextDraw).draws = s.draws + 1 := rfl
@[simp] theorem State.nextDraw_reg (s : State) (r : RegIdx) : (s.nextDraw).reg r = s.reg r := rfl
@[simp] theorem State.nextDraw_slot (s : State) (j : Fin 16) : (s.nextDraw).slot j = s.slot j := rfl
@[simp] theorem State.nextDraw_key (s : State) (j : KeyIdx) : (s.nextDraw).key j = s.key j := rfl
@[simp] theorem State.nextDraw_pixel (s : State) (row : Fin 32) (col : Fin 64) : (s.nextDraw).pixel row col = s.pixel row col := rfl

/-! ## randomLoad -/

@[simp] theorem State.randomLoad_v (s : State) (x : RegIdx) (kk draw : Byte) : (s.randomLoad x kk draw).v = (s.setReg x (draw &&& kk)).v := rfl
@[simp] theorem State.randomLoad_pc (s : State) (x : RegIdx) (kk draw : Byte) : (s.randomLoad x kk draw).pc = s.pc + 2 := rfl
@[simp] theorem State.randomLoad_i (s : State) (x : RegIdx) (kk draw : Byte) : (s.randomLoad x kk draw).i = s.i := rfl
@[simp] theorem State.randomLoad_ir (s : State) (x : RegIdx) (kk draw : Byte) : (s.randomLoad x kk draw).ir = s.ir := rfl
@[simp] theorem State.randomLoad_run (s : State) (x : RegIdx) (kk draw : Byte) : (s.randomLoad x kk draw).run = s.run := rfl
@[simp] theorem State.randomLoad_stack (s : State) (x : RegIdx) (kk draw : Byte) : (s.randomLoad x kk draw).stack = s.stack := rfl
@[simp] theorem State.randomLoad_sp (s : State) (x : RegIdx) (kk draw : Byte) : (s.randomLoad x kk draw).sp = s.sp := rfl
@[simp] theorem State.randomLoad_dt (s : State) (x : RegIdx) (kk draw : Byte) : (s.randomLoad x kk draw).dt = s.dt := rfl
@[simp] theorem State.randomLoad_st (s : State) (x : RegIdx) (kk draw : Byte) : (s.randomLoad x kk draw).st = s.st := rfl
@[simp] theorem State.randomLoad_fb (s : State) (x : RegIdx) (kk draw : Byte) : (s.randomLoad x kk draw).fb = s.fb := rfl
@[simp] theorem State.randomLoad_keys (s : State) (x : RegIdx) (kk draw : Byte) : (s.randomLoad x kk draw).keys = s.keys := rfl
@[simp] theorem State.randomLoad_mem (s : State) (x : RegIdx) (kk draw : Byte) : (s.randomLoad x kk draw).mem = s.mem := rfl
@[simp] theorem State.randomLoad_result (s : State) (x : RegIdx) (kk draw : Byte) : (s.randomLoad x kk draw).result = s.result := rfl
@[simp] theorem State.randomLoad_beep (s : State) (x : RegIdx) (kk draw : Byte) : (s.randomLoad x kk draw).beep = s.beep := rfl
@[simp] theorem State.randomLoad_draws (s : State) (x : RegIdx) (kk draw : Byte) : (s.randomLoad x kk draw).draws = s.draws := rfl
@[simp] theorem State.randomLoad_slot (s : State) (x : RegIdx) (kk draw : Byte) (j : Fin 16) : (s.randomLoad x kk draw).slot j = s.slot j := rfl
@[simp] theorem State.randomLoad_key (s : State) (x : RegIdx) (kk draw : Byte) (j : KeyIdx) : (s.randomLoad x kk draw).key j = s.key j := rfl
@[simp] theorem State.randomLoad_pixel (s : State) (x : RegIdx) (kk draw : Byte) (row : Fin 32) (col : Fin 64) : (s.randomLoad x kk draw).pixel row col = s.pixel row col := rfl

/-! ## setKey -/

@[simp] theorem State.setKey_v (s : State) (k : KeyIdx) (b : Bool) : (s.setKey k b).v = s.v := rfl
@[simp] theorem State.setKey_pc (s : State) (k : KeyIdx) (b : Bool) : (s.setKey k b).pc = s.pc := rfl
@[simp] theorem State.setKey_i (s : State) (k : KeyIdx) (b : Bool) : (s.setKey k b).i = s.i := rfl
@[simp] theorem State.setKey_ir (s : State) (k : KeyIdx) (b : Bool) : (s.setKey k b).ir = s.ir := rfl
@[simp] theorem State.setKey_run (s : State) (k : KeyIdx) (b : Bool) : (s.setKey k b).run = s.run := rfl
@[simp] theorem State.setKey_stack (s : State) (k : KeyIdx) (b : Bool) : (s.setKey k b).stack = s.stack := rfl
@[simp] theorem State.setKey_sp (s : State) (k : KeyIdx) (b : Bool) : (s.setKey k b).sp = s.sp := rfl
@[simp] theorem State.setKey_dt (s : State) (k : KeyIdx) (b : Bool) : (s.setKey k b).dt = s.dt := rfl
@[simp] theorem State.setKey_st (s : State) (k : KeyIdx) (b : Bool) : (s.setKey k b).st = s.st := rfl
@[simp] theorem State.setKey_fb (s : State) (k : KeyIdx) (b : Bool) : (s.setKey k b).fb = s.fb := rfl
@[simp] theorem State.setKey_keys (s : State) (k : KeyIdx) (b : Bool) : (s.setKey k b).keys = s.keys.set k.toNat b k.isLt := rfl
@[simp] theorem State.setKey_mem (s : State) (k : KeyIdx) (b : Bool) : (s.setKey k b).mem = s.mem := rfl
@[simp] theorem State.setKey_result (s : State) (k : KeyIdx) (b : Bool) : (s.setKey k b).result = s.result := rfl
@[simp] theorem State.setKey_beep (s : State) (k : KeyIdx) (b : Bool) : (s.setKey k b).beep = s.beep := rfl
@[simp] theorem State.setKey_draws (s : State) (k : KeyIdx) (b : Bool) : (s.setKey k b).draws = s.draws := rfl
@[simp] theorem State.setKey_reg (s : State) (k : KeyIdx) (b : Bool) (r : RegIdx) : (s.setKey k b).reg r = s.reg r := rfl
@[simp] theorem State.setKey_slot (s : State) (k : KeyIdx) (b : Bool) (j : Fin 16) : (s.setKey k b).slot j = s.slot j := rfl
@[simp] theorem State.setKey_pixel (s : State) (k : KeyIdx) (b : Bool) (row : Fin 32) (col : Fin 64) : (s.setKey k b).pixel row col = s.pixel row col := rfl

end Sys2Proof.Machine
end

