-- ==== Sys2Proof/Laws/Ops.lean ====
section
/-! SUPPORT. One lemma per shared operation that says everything it can do. -/

namespace Sys2Proof.Machine

/-! ## Memory access -/

theorem inRange_iff (a n : Nat) : inRange a n = true ↔ n = 0 ∨ a + n ≤ 4096 := by
  simp [inRange]

/-- `memRead` answers the bytes of an in-range access, else AddressingError. -/
theorem State.memRead_eq (s : State) (a n : Nat) :
    s.memRead a n = if n = 0 ∨ a + n ≤ 4096 then .ok (s.mem.readBytes a n) else .error .addressingError := by
  simp [State.memRead, inRange]

/-- `memWrite` writes every byte of an in-range access, else answers AddressingError. -/
theorem State.memWrite_eq (s : State) (a : Nat) (bs : List Byte) :
    s.memWrite a bs =
      if bs.length = 0 ∨ a + bs.length ≤ 4096 then .ok (s.putBytes a bs) else .error .addressingError := by
  simp [State.memWrite, inRange]

/-- The fetch phase: the word at PC if both its bytes are in memory, else AddressingError (R121). -/
theorem State.fetch_eq (s : State) :
    s.fetch = if s.pc.toNat + 2 ≤ 4096
      then .ok (wordOfBytes (s.mem.read s.pc.toNat) (s.mem.read (s.pc.toNat + 1)))
      else .error .addressingError := by
  rw [State.fetch, State.memRead_eq]
  by_cases h : s.pc.toNat + 2 ≤ 4096 <;> simp [h, Memory.readBytes]

/-! ## Registers -/

@[simp] theorem State.reg_setReg_self (s : State) (x : RegIdx) (b : Byte) : (s.setReg x b).reg x = b := by
  simp [State.reg, State.setReg]

theorem State.reg_setReg_ne (s : State) {x r : RegIdx} (b : Byte) (h : r ≠ x) :
    (s.setReg x b).reg r = s.reg r := by
  have hne : x.toNat ≠ r.toNat := fun e => h (BitVec.eq_of_toNat_eq e.symm)
  simp [State.reg, State.setReg, Vector.getElem_set_ne _ _ hne]

/-- Every register after one is written. -/
theorem State.reg_setReg (s : State) (x r : RegIdx) (b : Byte) :
    (s.setReg x b).reg r = if r = x then b else s.reg r := by
  split
  · next h => rw [h, State.reg_setReg_self]
  · next h => exact State.reg_setReg_ne s b h

theorem State.reg_setVF (s : State) (r : RegIdx) (f : Byte) :
    (s.setVF f).reg r = if r = 0xF then f else s.reg r :=
  State.reg_setReg s 0xF r f

/-- The result and flag writes: the flag wins where both go to VF (R161). -/
theorem State.reg_setResultFlag (s : State) (x r : RegIdx) (result flag : Byte) :
    (s.setResultFlag x result flag).reg r =
      if r = 0xF then flag else if r = x then result else s.reg r := by
  rw [State.setResultFlag, State.reg_setVF, State.reg_setReg]

theorem State.reg_randomLoad (s : State) (x r : RegIdx) (kk draw : Byte) :
    (s.randomLoad x kk draw).reg r = if r = x then draw &&& kk else s.reg r :=
  State.reg_setReg s x r (draw &&& kk)

/-- `loadRegs` writes registers only. -/
theorem State.loadRegs_frame (s : State) (k : Nat) (bs : List Byte) :
    s.loadRegs k bs = { s with v := (s.loadRegs k bs).v } := by
  induction bs generalizing s k with
  | nil => rfl
  | cons b bs ih => rw [State.loadRegs, ih]; rfl

/-- Every register after a block is loaded into V[k] and up. -/
theorem State.reg_loadRegs (s : State) (k : Nat) (bs : List Byte) (r : RegIdx) (h : k + bs.length ≤ 16) :
    (s.loadRegs k bs).reg r =
      if k ≤ r.toNat ∧ r.toNat < k + bs.length then bs.getD (r.toNat - k) 0 else s.reg r := by
  induction bs generalizing s k with
  | nil => rw [if_neg (by simp)]; rfl
  | cons b bs ih =>
    have hlen : k + (bs.length + 1) ≤ 16 := h
    have hk : (BitVec.ofNat 4 k).toNat = k := by simp; omega
    rw [State.loadRegs, ih _ _ (by omega), State.reg_setReg, List.length_cons]
    by_cases hr : r = BitVec.ofNat 4 k
    · have : r.toNat = k := by rw [hr, hk]
      rw [if_neg (by omega), if_pos hr, if_pos (by omega)]
      simp [this]
    · have hne : r.toNat ≠ k := fun e => hr (BitVec.eq_of_toNat_eq (by rw [hk, e]))
      by_cases h1 : k + 1 ≤ r.toNat ∧ r.toNat < k + 1 + bs.length
      · have h3 : r.toNat - k = (r.toNat - (k + 1)) + 1 := by omega
        rw [if_pos h1, if_pos (by omega), h3, List.getD_cons_succ]
      · rw [if_neg h1, if_neg hr, if_neg (by omega)]

/-- The bytes of a register block: V[k] at place k. -/
theorem State.regBlock_getD (s : State) (x : RegIdx) (k : Nat) (h : k ≤ x.toNat) :
    (s.regBlock x).getD k 0 = s.reg (BitVec.ofNat 4 k) := by
  simp [State.regBlock, blockLength, List.getD_eq_getElem?_getD, List.getElem?_range (Nat.lt_succ_of_le h)]

@[simp] theorem State.regBlock_length (s : State) (x : RegIdx) :
    (s.regBlock x).length = blockLength x := by
  simp [State.regBlock]

/-! ## Stack -/

/-- `push` below the top: the slot at SP is the value, SP is one more, nothing else changes. -/
theorem State.push_ok (s : State) (a : Word) (h : s.sp.val < 16) :
    s.push a = .ok { s with stack := s.stack.set s.sp.val a h, sp := ⟨s.sp.val + 1, Nat.succ_lt_succ h⟩ } :=
  dif_pos h

/-- `push` at SP = 16 is StackOverflow. -/
theorem State.push_full (s : State) (a : Word) (h : s.sp.val = 16) : s.push a = .error .stackOverflow :=
  dif_neg (by simp [h])

/-- `pop` above the bottom: the value of the slot below SP, SP one less, nothing else changes. -/
theorem State.pop_ok (s : State) (k : Fin 16) (h : s.sp.val = k.val + 1) :
    s.pop = .ok (s.slot k, { s with sp := ⟨k.val, Nat.lt_succ_of_lt k.isLt⟩ }) := by
  rcases hsp : s.sp with ⟨n, hn⟩
  have : n = k.val + 1 := by simpa [hsp] using h
  subst this
  simp [State.pop, hsp]

/-- `pop` at SP = 0 is StackUnderflow. -/
theorem State.pop_empty (s : State) (h : s.sp.val = 0) : s.pop = .error .stackUnderflow := by
  rcases hsp : s.sp with ⟨n, hn⟩
  have : n = 0 := by simpa [hsp] using h
  subst this
  simp [State.pop, hsp]

/-! ## Screen -/

/-- Every pixel after one is toggled. -/
theorem Frame.pixel_toggle (fb : Frame) (r r' : Fin 32) (c c' : Fin 64) :
    (fb.toggle r c).pixel r' c' = if r' = r ∧ c' = c then !fb.pixel r c else fb.pixel r' c' := by
  by_cases hr : r' = r
  · subst hr
    by_cases hc : c' = c
    · subst hc; simp [Frame.pixel, Frame.toggle]
    · have hne : c.val ≠ c'.val := fun e => hc (Fin.ext e.symm)
      simp [Frame.pixel, Frame.toggle, hc, Vector.getElem_set_ne _ _ hne]
  · have hne : r.val ≠ r'.val := fun e => hr (Fin.ext e.symm)
    simp [Frame.pixel, Frame.toggle, hr, Vector.getElem_set_ne _ _ hne]

@[simp] theorem Frame.pixel_blank (r : Fin 32) (c : Fin 64) : Frame.blank.pixel r c = false := by
  simp [Frame.pixel, Frame.blank]

/-! ## Keyboard -/

/-- Every key after one is set. -/
theorem State.key_setKey (s : State) (k j : KeyIdx) (b : Bool) :
    (s.setKey k b).key j = if j = k then b else s.key j := by
  by_cases h : j = k
  · subst h; simp [State.key, State.setKey]
  · have hne : k.toNat ≠ j.toNat := fun e => h (BitVec.eq_of_toNat_eq e.symm)
    simp [State.key, State.setKey, h, Vector.getElem_set_ne _ _ hne]

/-! ## Timers -/

theorem countDown_toNat (t : Byte) : (countDown t).toNat = t.toNat - 1 := by
  unfold countDown
  split
  · next h => subst h; rfl
  · next h =>
    have : t.toNat ≠ 0 := fun e => h (BitVec.eq_of_toNat_eq (by simpa using e))
    have := t.isLt
    rw [BitVec.toNat_sub_of_le (by simp [BitVec.le_def]; omega)]
    rfl

/-! ## Fault codes -/

@[simp] theorem HaltReason.code_inj {f g : HaltReason} : f.code = g.code ↔ f = g := by
  cases f <;> cases g <;> decide

@[simp] theorem RunState.code_running : RunState.running.code = 0 := rfl

@[simp] theorem RunState.code_halted (f : HaltReason) : (RunState.halted f).code = f.code := rfl

/-- The code names the run state: no two share one. -/
@[simp] theorem RunState.code_inj {a b : RunState} : a.code = b.code ↔ a = b := by
  have hpos : ∀ f : HaltReason, f.code ≠ 0 := fun f => by cases f <;> decide
  cases a <;> cases b <;> simp [hpos, Ne.symm (hpos _)]

/-- The code of a fault, once taken, is that of its reason. -/
@[simp] theorem State.takeFault_haltCode (s : State) (f : HaltReason) : (s.takeFault f).haltCode = f.code := rfl

/-- A state shows the code of a run state exactly where RUN is that run state. -/
theorem State.haltCode_eq_iff (s : State) (r : RunState) : s.haltCode = r.code ↔ s.run = r :=
  RunState.code_inj

/-! ## The end of an execute phase and of a step -/

@[simp] theorem State.conclude_ok (s t : State) : s.conclude (.ok t) = .next t := rfl

@[simp] theorem State.conclude_error (s : State) (f : HaltReason) :
    s.conclude (.error f) = .next (s.takeFault f) := rfl

theorem State.endStep_running {s : State} (h : s.run = .running) : s.endStep = s.tick := by
  simp [State.endStep, h]

theorem State.endStep_halted {s : State} {f : HaltReason} (h : s.run = .halted f) : s.endStep = s := by
  simp [State.endStep, h]

end Sys2Proof.Machine
end

