-- ==== Sys2Proof/Laws/Exec.lean ====
section
/-! SUPPORT. What the execute phase and the step can do, said once: the three shapes of a step, and the
two ends of an execute phase. -/

namespace Sys2Proof.Machine

/-! ## The step, by the phase it reaches -/

theorem RunState.running_or_halted (r : RunState) : r = .running ∨ ∃ f, r = .halted f := by
  cases r with
  | running => exact .inl rfl
  | halted f => exact .inr ⟨f, rfl⟩

theorem step_halted {s : State} {f : HaltReason} (hr : s.run = .halted f) : step s = .next s.idle := by
  rw [step, hr]

theorem step_fetchFault {s : State} (hr : s.run = .running) (hp : s.pc.toNat + 2 > 4096) :
    step s = .next (s.takeFault .addressingError) := by
  rw [step, hr]
  simp only [State.fetch_eq, if_neg (Nat.not_le.2 hp)]

/-- A step that fetched: the word at PC is latched, decoded, and executed or refused as unknown. -/
theorem step_fetched {s : State} (hr : s.run = .running) (hp : s.pc.toNat + 2 ≤ 4096) :
    step s = match decodeWord s.wordAtPC with
      | .error _ => .next ((s.latch s.wordAtPC).takeFault .unknownOpcode)
      | .ok i =>
        match exec i (s.latch s.wordAtPC) with
        | .next t => .next t.endStep
        | .fault r => .fault r
        | .refused r => .refused r := by
  rw [step, hr]
  simp only [State.fetch_eq, if_pos hp]
  rfl

/-! ## The two ends of an execute phase -/

/-- The execute phase of `i` in `s` ends as it must: without a fault where no fault condition holds, and
otherwise with the one fault whose condition holds taken from `s`. -/
def EndsWell (i : Instr) (s : State) : Prop :=
  ∃ t, exec i s = .next t ∧
    ((t.run = s.run ∧ ∀ f, ¬ executeFault s i f) ∨
      ∃ f, executeFault s i f ∧ (∀ g, executeFault s i g → g = f) ∧ t = s.takeFault f)

/-- An instruction with no fault condition at this state. -/
theorem EndsWell.of_next {i : Instr} {s t : State} (h : exec i s = .next t) (hr : t.run = s.run)
    (hn : ∀ f, ¬ executeFault s i f) : EndsWell i s :=
  ⟨t, h, .inl ⟨hr, hn⟩⟩

/-- An instruction whose fault condition holds. -/
theorem EndsWell.of_fault {i : Instr} {s : State} (f : HaltReason) (h : exec i s = .next (s.takeFault f))
    (hf : executeFault s i f) (hu : ∀ g, executeFault s i g → g = f) : EndsWell i s :=
  ⟨_, h, .inr ⟨f, hf, hu, rfl⟩⟩

/-- An access of n bytes at I that fits has no AddressingError. -/
theorem accessFaults_not {a n : Nat} (h : n = 0 ∨ a + n ≤ 4096) : ¬ accessFaults a n := by
  rintro ⟨h1, h2⟩
  omega

theorem accessFaults_of {a n : Nat} (h : ¬ (n = 0 ∨ a + n ≤ 4096)) : accessFaults a n :=
  ⟨by omega, by omega⟩

theorem execCall_ends (nnn : Addr12) (s : State) : EndsWell (.call nnn) s := by
  by_cases h : s.sp.val < 16
  · refine .of_next (by rw [exec, execCall, State.push_ok _ _ h]; rfl) (by rfl) fun f => ?_
    cases f <;> simp [executeFault, accessFaults, accessLength]
    omega
  · have h16 : s.sp.val = 16 := by omega
    refine .of_fault .stackOverflow (by rw [exec, execCall, State.push_full _ _ h16]; rfl) h16 fun g => ?_
    cases g <;> simp [executeFault, accessFaults, accessLength]

theorem execRet_ends (s : State) : EndsWell .ret s := by
  by_cases h : s.sp.val = 0
  · refine .of_fault .stackUnderflow (by rw [exec, execRet, State.pop_empty _ h]; rfl) h fun g => ?_
    cases g <;> simp [executeFault, accessFaults, accessLength]
  · have hlt := s.sp.isLt
    have hk : s.sp.val = (⟨s.sp.val - 1, by omega⟩ : Fin 16).val + 1 := by simp; omega
    refine .of_next (by rw [exec, execRet, State.pop_ok _ _ hk]; rfl) (by rfl) fun f => ?_
    cases f <;> simp [executeFault, accessFaults, accessLength]
    exact fun e => h (by simp [e])

theorem execLdVxK_ends (x : RegIdx) (s : State) : EndsWell (.ldVxK x) s := by
  have hn : ∀ f, ¬ executeFault s (.ldVxK x) f := fun f => by
    cases f <;> simp [executeFault, accessFaults, accessLength]
  cases h : s.anyPressed with
  | none => exact .of_next (by rw [exec, execLdVxK, h]) (by rfl) hn
  | some k => exact .of_next (by rw [exec, execLdVxK, h]) (by rfl) hn

theorem execLdB_ends (x : RegIdx) (s : State) : EndsWell (.ldB x) s := by
  have hl : (bcdDigits (s.reg x)).length = 3 := rfl
  by_cases h : 3 = 0 ∨ s.base + 3 ≤ 4096
  · refine .of_next (by rw [exec, execLdB, State.memWrite_eq, hl, if_pos h]; rfl) (by rfl) fun f => ?_
    cases f with
    | addressingError => exact accessFaults_not h
    | _ => exact id
  · refine .of_fault .addressingError (by rw [exec, execLdB, State.memWrite_eq, hl, if_neg h]; rfl)
      (accessFaults_of h) fun g => ?_
    cases g <;> simp [executeFault]

theorem execLdMemVx_ends (x : RegIdx) (s : State) : EndsWell (.ldMemVx x) s := by
  have hl : (s.regBlock x).length = x.toNat + 1 := by rw [State.regBlock_length]; rfl
  by_cases h : x.toNat + 1 = 0 ∨ s.base + (x.toNat + 1) ≤ 4096
  · refine .of_next (by rw [exec, execLdMemVx, State.memWrite_eq, hl, if_pos h]; rfl) (by rfl) fun f => ?_
    cases f with
    | addressingError => exact accessFaults_not h
    | _ => exact id
  · refine .of_fault .addressingError (by rw [exec, execLdMemVx, State.memWrite_eq, hl, if_neg h]; rfl)
      (accessFaults_of h) fun g => ?_
    cases g <;> simp [executeFault]

theorem execLdVxMem_ends (x : RegIdx) (s : State) : EndsWell (.ldVxMem x) s := by
  by_cases h : x.toNat + 1 = 0 ∨ s.base + (x.toNat + 1) ≤ 4096
  · refine .of_next (by rw [exec, execLdVxMem, State.memRead_eq, blockLength, if_pos h]; rfl) ?_ fun f => ?_
    · rw [State.advance_run, State.loadRegs_frame]
    · cases f with
      | addressingError => exact accessFaults_not h
      | _ => exact id
  · refine .of_fault .addressingError (by rw [exec, execLdVxMem, State.memRead_eq, blockLength, if_neg h]; rfl)
      (accessFaults_of h) fun g => ?_
    cases g <;> simp [executeFault]

theorem execDrw_ends (x y : RegIdx) (n : Height) (s : State) : EndsWell (.drw x y n) s := by
  by_cases h : n.toNat = 0 ∨ s.base + n.toNat ≤ 4096
  · refine .of_next (by rw [exec, execDrw, State.memRead_eq, if_pos h]; rfl) (by rfl) fun f => ?_
    cases f with
    | addressingError => exact accessFaults_not h
    | _ => exact id
  · refine .of_fault .addressingError (by rw [exec, execDrw, State.memRead_eq, if_neg h]; rfl)
      (accessFaults_of h) fun g => ?_
    cases g <;> simp [executeFault]

/-- The execute phase of every instruction ends well in every state. -/
theorem exec_ends (i : Instr) (s : State) : EndsWell i s := by
  cases i
  case call nnn => exact execCall_ends nnn s
  case ret => exact execRet_ends s
  case ldVxK x => exact execLdVxK_ends x s
  case ldB x => exact execLdB_ends x s
  case ldMemVx x => exact execLdMemVx_ends x s
  case ldVxMem x => exact execLdVxMem_ends x s
  case drw x y n => exact execDrw_ends x y n s
  all_goals
    refine .of_next rfl (by rfl) fun f => ?_
    cases f <;> simp [executeFault, accessFaults, accessLength]

end Sys2Proof.Machine
end

