-- ==== Sys2Proof/Laws/PerInstr.lean ====
section
/-! SUPPORT. The per-instruction family TableRow: the word of an instruction carries the fixed bits of its
row of R96, `w & mask = match`. -/

namespace Sys2Proof.Laws.TableRow

/-- The word of the instruction, masked as its row says, is the row's `match`. -/
def Statement (i : Instr) : Prop := encodeWord i &&& (rowOf i).1 = (rowOf i).2

theorem cls : Statement (.cls) := rfl

theorem ret : Statement (.ret) := rfl

theorem sys (nnn : Addr12) : Statement (.sys nnn) := 
  (formatNNN_and _ 0xF nnn 0).trans (by simp; rfl)

theorem jp (nnn : Addr12) : Statement (.jp nnn) := 
  (formatNNN_and _ 0xF nnn 0).trans (by simp; rfl)

theorem call (nnn : Addr12) : Statement (.call nnn) := 
  (formatNNN_and _ 0xF nnn 0).trans (by simp; rfl)

theorem seImm (x : RegIdx) (kk : Byte) : Statement (.seImm x kk) := 
  (formatXKK_and _ 0xF x 0 kk 0).trans (by simp; rfl)

theorem sneImm (x : RegIdx) (kk : Byte) : Statement (.sneImm x kk) := 
  (formatXKK_and _ 0xF x 0 kk 0).trans (by simp; rfl)

theorem seReg (x : RegIdx) (y : RegIdx) : Statement (.seReg x y) := 
  (formatXYN_and _ 0xF x 0 y 0 _ 0xF).trans (by simp; rfl)

theorem ldImm (x : RegIdx) (kk : Byte) : Statement (.ldImm x kk) := 
  (formatXKK_and _ 0xF x 0 kk 0).trans (by simp; rfl)

theorem addImm (x : RegIdx) (kk : Byte) : Statement (.addImm x kk) := 
  (formatXKK_and _ 0xF x 0 kk 0).trans (by simp; rfl)

theorem ldReg (x : RegIdx) (y : RegIdx) : Statement (.ldReg x y) := 
  (formatXYN_and _ 0xF x 0 y 0 _ 0xF).trans (by simp; rfl)

theorem orReg (x : RegIdx) (y : RegIdx) : Statement (.orReg x y) := 
  (formatXYN_and _ 0xF x 0 y 0 _ 0xF).trans (by simp; rfl)

theorem andReg (x : RegIdx) (y : RegIdx) : Statement (.andReg x y) := 
  (formatXYN_and _ 0xF x 0 y 0 _ 0xF).trans (by simp; rfl)

theorem xorReg (x : RegIdx) (y : RegIdx) : Statement (.xorReg x y) := 
  (formatXYN_and _ 0xF x 0 y 0 _ 0xF).trans (by simp; rfl)

theorem addReg (x : RegIdx) (y : RegIdx) : Statement (.addReg x y) := 
  (formatXYN_and _ 0xF x 0 y 0 _ 0xF).trans (by simp; rfl)

theorem subReg (x : RegIdx) (y : RegIdx) : Statement (.subReg x y) := 
  (formatXYN_and _ 0xF x 0 y 0 _ 0xF).trans (by simp; rfl)

theorem shr (x : RegIdx) (y : RegIdx) : Statement (.shr x y) := 
  (formatXYN_and _ 0xF x 0 y 0 _ 0xF).trans (by simp; rfl)

theorem subn (x : RegIdx) (y : RegIdx) : Statement (.subn x y) := 
  (formatXYN_and _ 0xF x 0 y 0 _ 0xF).trans (by simp; rfl)

theorem shl (x : RegIdx) (y : RegIdx) : Statement (.shl x y) := 
  (formatXYN_and _ 0xF x 0 y 0 _ 0xF).trans (by simp; rfl)

theorem sneReg (x : RegIdx) (y : RegIdx) : Statement (.sneReg x y) := 
  (formatXYN_and _ 0xF x 0 y 0 _ 0xF).trans (by simp; rfl)

theorem ldI (nnn : Addr12) : Statement (.ldI nnn) := 
  (formatNNN_and _ 0xF nnn 0).trans (by simp; rfl)

theorem jpV0 (nnn : Addr12) : Statement (.jpV0 nnn) := 
  (formatNNN_and _ 0xF nnn 0).trans (by simp; rfl)

theorem rnd (x : RegIdx) (kk : Byte) : Statement (.rnd x kk) := 
  (formatXKK_and _ 0xF x 0 kk 0).trans (by simp; rfl)

theorem drw (x : RegIdx) (y : RegIdx) (n : Height) : Statement (.drw x y n) := 
  (formatXYN_and _ 0xF x 0 y 0 n 0).trans (by simp; rfl)

theorem skp (x : RegIdx) : Statement (.skp x) := 
  (formatXKK_and _ 0xF x 0 _ 0xFF).trans (by simp; rfl)

theorem sknp (x : RegIdx) : Statement (.sknp x) := 
  (formatXKK_and _ 0xF x 0 _ 0xFF).trans (by simp; rfl)

theorem ldVxDT (x : RegIdx) : Statement (.ldVxDT x) := 
  (formatXKK_and _ 0xF x 0 _ 0xFF).trans (by simp; rfl)

theorem ldVxK (x : RegIdx) : Statement (.ldVxK x) := 
  (formatXKK_and _ 0xF x 0 _ 0xFF).trans (by simp; rfl)

theorem ldDTVx (x : RegIdx) : Statement (.ldDTVx x) := 
  (formatXKK_and _ 0xF x 0 _ 0xFF).trans (by simp; rfl)

theorem ldSTVx (x : RegIdx) : Statement (.ldSTVx x) := 
  (formatXKK_and _ 0xF x 0 _ 0xFF).trans (by simp; rfl)

theorem addI (x : RegIdx) : Statement (.addI x) := 
  (formatXKK_and _ 0xF x 0 _ 0xFF).trans (by simp; rfl)

theorem ldF (x : RegIdx) : Statement (.ldF x) := 
  (formatXKK_and _ 0xF x 0 _ 0xFF).trans (by simp; rfl)

theorem ldB (x : RegIdx) : Statement (.ldB x) := 
  (formatXKK_and _ 0xF x 0 _ 0xFF).trans (by simp; rfl)

theorem ldMemVx (x : RegIdx) : Statement (.ldMemVx x) := 
  (formatXKK_and _ 0xF x 0 _ 0xFF).trans (by simp; rfl)

theorem ldVxMem (x : RegIdx) : Statement (.ldVxMem x) := 
  (formatXKK_and _ 0xF x 0 _ 0xFF).trans (by simp; rfl)

end Sys2Proof.Laws.TableRow
end

