-- ==== Sys2Proof/Laws/Screen.lean ====
section
/-! SUPPORT. What drawing does: one row, then a whole sprite. `rowHits` and `rowsHit` say which pixels lie
under 1 bits. -/

namespace Sys2Proof.Machine

/-- Some column `j` of the list has a 1 bit in `row` and lands on column `c`. -/
def rowHits (cx : Nat) (row : Byte) (js : List Nat) (c : Fin 64) : Bool :=
  js.any fun j => row.getLsbD (7 - j) && decide (c = wrapCol (cx + j))

/-- Some 1 bit of the rows, the first at row sum `rs`, lands on row `r`, column `c`. -/
def rowsHit (cx : Nat) : Nat → List Byte → Fin 32 → Fin 64 → Bool
  | _, [], _, _ => false
  | rs, row :: rows, r, c =>
    (decide (r = wrapRow rs) && rowHits cx row (List.range 8) c) || rowsHit cx (rs + 1) rows r c

theorem rowHits_iff (cx : Nat) (row : Byte) (js : List Nat) (c : Fin 64) :
    rowHits cx row js c = true ↔ ∃ j ∈ js, row.getLsbD (7 - j) = true ∧ c.val = (cx + j) % 64 := by
  simp [rowHits, Fin.ext_iff, wrapCol]

theorem rowsHit_iff (cx rs : Nat) (rows : List Byte) (r : Fin 32) (c : Fin 64) :
    rowsHit cx rs rows r c = true ↔
      ∃ i j : Nat, i < rows.length ∧ j < 8 ∧ (rows.getD i 0).getLsbD (7 - j) = true ∧
        r.val = (rs + i) % 32 ∧ c.val = (cx + j) % 64 := by
  induction rows generalizing rs with
  | nil => simp [rowsHit]
  | cons row rows ih =>
    simp only [rowsHit, Bool.or_eq_true, Bool.and_eq_true, decide_eq_true_eq, rowHits_iff, ih,
      List.mem_range, Fin.ext_iff, wrapRow]
    constructor
    · rintro (⟨hr, j, hj, hb, hc⟩ | ⟨i, j, hi, hj, hb, hr, hc⟩)
      · exact ⟨0, j, by simp, hj, by simpa using hb, hr, hc⟩
      · exact ⟨i + 1, j, by simpa using hi, hj, by simpa using hb, by rw [hr]; congr 1; omega, hc⟩
    · rintro ⟨i, j, hi, hj, hb, hr, hc⟩
      cases i with
      | zero => exact .inl ⟨hr, j, hj, by simpa using hb, hc⟩
      | succ i =>
        exact .inr ⟨i, j, by simpa using hi, hj, by simpa using hb, by rw [hr]; congr 1; omega, hc⟩

/-- The columns of one row are drawn one after the other; distinct columns below 8 hit distinct pixels. -/
theorem drawColumns_spec (cx rs : Nat) (row : Byte) (js : List Nat) (acc : Frame × Bool)
    (hnd : js.Nodup) (hlt : ∀ j ∈ js, j < 8) :
    let out := js.foldl
      (fun acc j => if row.getLsbD (7 - j) then drawPixel rs (cx + j) acc else acc) acc
    (∀ r c, out.1.pixel r c =
      (acc.1.pixel r c ^^ (decide (r = wrapRow rs) && rowHits cx row js c))) ∧
    (out.2 = true ↔
      acc.2 = true ∨ ∃ c, rowHits cx row js c = true ∧ acc.1.pixel (wrapRow rs) c = true) := by
  induction js generalizing acc with
  | nil => simp [rowHits]
  | cons j js ih =>
    obtain ⟨hj, hnd⟩ := List.nodup_cons.1 hnd
    have hlt' : ∀ k ∈ js, k < 8 := fun k hk => hlt k (List.mem_cons_of_mem _ hk)
    have hj8 : j < 8 := hlt j List.mem_cons_self
    have hmiss : rowHits cx row js (wrapCol (cx + j)) = false := by
      rw [Bool.eq_false_iff]
      intro h
      obtain ⟨k, hk, -, hc⟩ := (rowHits_iff ..).1 h
      have hk8 := hlt' k hk
      have : k ≠ j := fun e => hj (e ▸ hk)
      simp only [wrapCol, Config.screenW] at hc
      omega
    by_cases hb : row.getLsbD (7 - j) = true
    · obtain ⟨h1, h2⟩ := ih (drawPixel rs (cx + j) acc) hnd hlt'
      have hcons : ∀ c, rowHits cx row (j :: js) c =
          (decide (c = wrapCol (cx + j)) || rowHits cx row js c) := fun c => by
        simp [rowHits, hb]
      simp only [List.foldl_cons, hb, if_true]
      refine ⟨fun r c => ?_, ?_⟩
      · rw [h1, hcons]
        simp only [drawPixel, Frame.pixel_toggle]
        by_cases hr : r = wrapRow rs
        · by_cases hc : c = wrapCol (cx + j)
          · subst hr; subst hc; simp [hmiss]
          · simp [hr, hc]
        · simp [hr]
      · rw [h2]
        simp only [drawPixel, Frame.pixel_toggle, Bool.or_eq_true, hcons, decide_eq_true_eq]
        constructor
        · rintro ((h | h) | ⟨c, hc, hp⟩)
          · exact .inl h
          · exact .inr ⟨_, .inl rfl, h⟩
          · have hne : c ≠ wrapCol (cx + j) := fun e => by rw [e, hmiss] at hc; cases hc
            exact .inr ⟨c, .inr hc, by simpa [hne] using hp⟩
        · rintro (h | ⟨c, rfl | hc, hp⟩)
          · exact .inl (.inl h)
          · exact .inl (.inr hp)
          · have hne : c ≠ wrapCol (cx + j) := fun e => by rw [e, hmiss] at hc; cases hc
            exact .inr ⟨c, hc, by simpa [hne] using hp⟩
    · have hcons : ∀ c, rowHits cx row (j :: js) c = rowHits cx row js c := fun c => by
        simp [rowHits, hb]
      simpa only [List.foldl_cons, if_neg hb, hcons] using ih acc hnd hlt'

/-- One sprite row toggles the pixels it hits and collides where one of them was on. -/
theorem drawRow_spec (cx rs : Nat) (row : Byte) (acc : Frame × Bool) :
    (∀ r c, (drawRow cx rs row acc).1.pixel r c =
      (acc.1.pixel r c ^^ (decide (r = wrapRow rs) && rowHits cx row (List.range 8) c))) ∧
    ((drawRow cx rs row acc).2 = true ↔ acc.2 = true ∨
      ∃ c, rowHits cx row (List.range 8) c = true ∧ acc.1.pixel (wrapRow rs) c = true) :=
  drawColumns_spec cx rs row (List.range 8) acc List.nodup_range fun _ => List.mem_range.1

/-- Rows below the current one, fewer than 32 in all, do not hit its pixels. -/
theorem rowsHit_below {cx rs : Nat} {rows : List Byte} (h : rows.length < 32) (c : Fin 64) :
    rowsHit cx (rs + 1) rows (wrapRow rs) c = false := by
  rw [Bool.eq_false_iff]
  intro hh
  obtain ⟨i, j, hi, -, -, hr, -⟩ := (rowsHit_iff ..).1 hh
  simp only [wrapRow, Config.screenH] at hr
  omega

/-- A sprite of at most 32 rows toggles exactly the pixels it hits (R214, R217), and collides exactly where
one of them was on. -/
theorem drawRows_spec (cx rs : Nat) (rows : List Byte) (acc : Frame × Bool) (h : rows.length ≤ 32) :
    (∀ r c, (drawRows cx rs rows acc).1.pixel r c = (acc.1.pixel r c ^^ rowsHit cx rs rows r c)) ∧
    ((drawRows cx rs rows acc).2 = true ↔
      acc.2 = true ∨ ∃ r c, rowsHit cx rs rows r c = true ∧ acc.1.pixel r c = true) := by
  induction rows generalizing rs acc with
  | nil => simp [drawRows, rowsHit]
  | cons row rows ih =>
    have hlen : rows.length < 32 := by simpa using h
    obtain ⟨h1, h2⟩ := ih (rs + 1) (drawRow cx rs row acc) hlen.le
    obtain ⟨k1, k2⟩ := drawRow_spec cx rs row acc
    simp only [drawRows, rowsHit]
    refine ⟨fun r c => ?_, ?_⟩
    · rw [h1, k1]
      by_cases hr : r = wrapRow rs
      · subst hr; simp [rowsHit_below hlen]
      · simp [hr]
    · rw [h2, k2]
      simp only [Bool.or_eq_true, Bool.and_eq_true, decide_eq_true_eq]
      constructor
      · rintro ((hc | ⟨c, hc, hp⟩) | ⟨r, c, hc, hp⟩)
        · exact .inl hc
        · exact .inr ⟨_, c, .inl ⟨rfl, hc⟩, hp⟩
        · have hne : r ≠ wrapRow rs := fun e => by rw [e, rowsHit_below hlen] at hc; cases hc
          exact .inr ⟨r, c, .inr hc, by simpa [k1, hne] using hp⟩
      · rintro (hc | ⟨r, c, ⟨rfl, hc⟩ | hc, hp⟩)
        · exact .inl (.inl hc)
        · exact .inl (.inr ⟨c, hc, hp⟩)
        · have hne : r ≠ wrapRow rs := fun e => by rw [e, rowsHit_below hlen] at hc; cases hc
          exact .inr ⟨r, c, hc, by simpa [k1, hne] using hp⟩

end Sys2Proof.Machine
end

