-- ==== Sys2Proof/Tests/Slice0.lean ====
section
/-! SUPPORT. The model's own tests. Every expected value is a row of `95_test_vectors.md` or a worked example
of an instruction rule, named in the comment before it; then one witness for each statement that has
hypotheses. -/

namespace Sys2Proof.Tests

open Sys2Proof Sys2Proof.Machine

/-! ## Well-formedness: the one check refuses its two ill-formed terms (R98) -/

theorem test_sys_E0_illFormed : ¬ (Instr.sys 0x0E0).WellFormed := by decide
theorem test_sys_EE_illFormed : ¬ (Instr.sys 0x0EE).WellFormed := by decide
theorem test_sys_1E0_wellFormed : (Instr.sys 0x1E0).WellFormed := by decide

/-! ## Decoding: the words of T-DEC, each written out from its encoding, both ways -/

theorem test_decode_cls : decodeWord 0x00E0 = .ok (.cls) ∧ encodeWord (.cls) = 0x00E0 := ⟨rfl, rfl⟩
theorem test_decode_ret : decodeWord 0x00EE = .ok (.ret) ∧ encodeWord (.ret) = 0x00EE := ⟨rfl, rfl⟩
theorem test_decode_sys : decodeWord 0x01E0 = .ok (.sys 0x1E0) ∧ encodeWord (.sys 0x1E0) = 0x01E0 := ⟨rfl, rfl⟩
theorem test_decode_jp : decodeWord 0x1234 = .ok (.jp 0x234) ∧ encodeWord (.jp 0x234) = 0x1234 := ⟨rfl, rfl⟩
theorem test_decode_call : decodeWord 0x2ABC = .ok (.call 0xABC) ∧ encodeWord (.call 0xABC) = 0x2ABC := ⟨rfl, rfl⟩
theorem test_decode_seImm : decodeWord 0x3A55 = .ok (.seImm 0xA 0x55) ∧ encodeWord (.seImm 0xA 0x55) = 0x3A55 := ⟨rfl, rfl⟩
theorem test_decode_sneImm : decodeWord 0x4B01 = .ok (.sneImm 0xB 0x01) ∧ encodeWord (.sneImm 0xB 0x01) = 0x4B01 := ⟨rfl, rfl⟩
theorem test_decode_seReg : decodeWord 0x5120 = .ok (.seReg 1 2) ∧ encodeWord (.seReg 1 2) = 0x5120 := ⟨rfl, rfl⟩
theorem test_decode_ldImm : decodeWord 0x6001 = .ok (.ldImm 0 0x01) ∧ encodeWord (.ldImm 0 0x01) = 0x6001 := ⟨rfl, rfl⟩
theorem test_decode_addImm : decodeWord 0x7203 = .ok (.addImm 2 0x03) ∧ encodeWord (.addImm 2 0x03) = 0x7203 := ⟨rfl, rfl⟩
theorem test_decode_ldReg : decodeWord 0x8AB0 = .ok (.ldReg 0xA 0xB) ∧ encodeWord (.ldReg 0xA 0xB) = 0x8AB0 := ⟨rfl, rfl⟩
theorem test_decode_orReg : decodeWord 0x8AB1 = .ok (.orReg 0xA 0xB) ∧ encodeWord (.orReg 0xA 0xB) = 0x8AB1 := ⟨rfl, rfl⟩
theorem test_decode_andReg : decodeWord 0x8AB2 = .ok (.andReg 0xA 0xB) ∧ encodeWord (.andReg 0xA 0xB) = 0x8AB2 := ⟨rfl, rfl⟩
theorem test_decode_xorReg : decodeWord 0x8AB3 = .ok (.xorReg 0xA 0xB) ∧ encodeWord (.xorReg 0xA 0xB) = 0x8AB3 := ⟨rfl, rfl⟩
theorem test_decode_addReg : decodeWord 0x8014 = .ok (.addReg 0 1) ∧ encodeWord (.addReg 0 1) = 0x8014 := ⟨rfl, rfl⟩
theorem test_decode_subReg : decodeWord 0x8AB5 = .ok (.subReg 0xA 0xB) ∧ encodeWord (.subReg 0xA 0xB) = 0x8AB5 := ⟨rfl, rfl⟩
theorem test_decode_shr : decodeWord 0x8AB6 = .ok (.shr 0xA 0xB) ∧ encodeWord (.shr 0xA 0xB) = 0x8AB6 := ⟨rfl, rfl⟩
theorem test_decode_subn : decodeWord 0x8AB7 = .ok (.subn 0xA 0xB) ∧ encodeWord (.subn 0xA 0xB) = 0x8AB7 := ⟨rfl, rfl⟩
theorem test_decode_shl : decodeWord 0x8ABE = .ok (.shl 0xA 0xB) ∧ encodeWord (.shl 0xA 0xB) = 0x8ABE := ⟨rfl, rfl⟩
theorem test_decode_sneReg : decodeWord 0x9CD0 = .ok (.sneReg 0xC 0xD) ∧ encodeWord (.sneReg 0xC 0xD) = 0x9CD0 := ⟨rfl, rfl⟩
theorem test_decode_ldI : decodeWord 0xA123 = .ok (.ldI 0x123) ∧ encodeWord (.ldI 0x123) = 0xA123 := ⟨rfl, rfl⟩
theorem test_decode_jpV0 : decodeWord 0xB456 = .ok (.jpV0 0x456) ∧ encodeWord (.jpV0 0x456) = 0xB456 := ⟨rfl, rfl⟩
theorem test_decode_rnd : decodeWord 0xC7F0 = .ok (.rnd 7 0xF0) ∧ encodeWord (.rnd 7 0xF0) = 0xC7F0 := ⟨rfl, rfl⟩
theorem test_decode_drw : decodeWord 0xD125 = .ok (.drw 1 2 5) ∧ encodeWord (.drw 1 2 5) = 0xD125 := ⟨rfl, rfl⟩
theorem test_decode_skp : decodeWord 0xE19E = .ok (.skp 1) ∧ encodeWord (.skp 1) = 0xE19E := ⟨rfl, rfl⟩
theorem test_decode_sknp : decodeWord 0xE1A1 = .ok (.sknp 1) ∧ encodeWord (.sknp 1) = 0xE1A1 := ⟨rfl, rfl⟩
theorem test_decode_ldVxDT : decodeWord 0xF107 = .ok (.ldVxDT 1) ∧ encodeWord (.ldVxDT 1) = 0xF107 := ⟨rfl, rfl⟩
theorem test_decode_ldVxK : decodeWord 0xF10A = .ok (.ldVxK 1) ∧ encodeWord (.ldVxK 1) = 0xF10A := ⟨rfl, rfl⟩
theorem test_decode_ldDTVx : decodeWord 0xF115 = .ok (.ldDTVx 1) ∧ encodeWord (.ldDTVx 1) = 0xF115 := ⟨rfl, rfl⟩
theorem test_decode_ldSTVx : decodeWord 0xF118 = .ok (.ldSTVx 1) ∧ encodeWord (.ldSTVx 1) = 0xF118 := ⟨rfl, rfl⟩
theorem test_decode_addI : decodeWord 0xF11E = .ok (.addI 1) ∧ encodeWord (.addI 1) = 0xF11E := ⟨rfl, rfl⟩
theorem test_decode_ldF : decodeWord 0xF129 = .ok (.ldF 1) ∧ encodeWord (.ldF 1) = 0xF129 := ⟨rfl, rfl⟩
theorem test_decode_ldB : decodeWord 0xF133 = .ok (.ldB 1) ∧ encodeWord (.ldB 1) = 0xF133 := ⟨rfl, rfl⟩
theorem test_decode_ldMemVx : decodeWord 0xF155 = .ok (.ldMemVx 1) ∧ encodeWord (.ldMemVx 1) = 0xF155 := ⟨rfl, rfl⟩
theorem test_decode_ldVxMem : decodeWord 0xF165 = .ok (.ldVxMem 1) ∧ encodeWord (.ldVxMem 1) = 0xF165 := ⟨rfl, rfl⟩

/-- T-DEC: group 0 words that are neither CLS nor RET are SYS. -/
theorem test_decode_group0 :
    decodeWord 0x0000 = .ok (.sys 0x000) ∧ decodeWord 0x00E1 = .ok (.sys 0x0E1) ∧
    decodeWord 0x0FEE = .ok (.sys 0xFEE) := ⟨rfl, rfl, rfl⟩

/-- T-DEC: words that are Unknown. -/
theorem test_decode_unknown :
    decodeWord 0x5121 = .error (.unknownOpcode 0x5121) ∧ decodeWord 0x8AB8 = .error (.unknownOpcode 0x8AB8) ∧
    decodeWord 0x8ABF = .error (.unknownOpcode 0x8ABF) ∧ decodeWord 0x9CD1 = .error (.unknownOpcode 0x9CD1) ∧
    decodeWord 0xE1A0 = .error (.unknownOpcode 0xE1A0) ∧ decodeWord 0xF185 = .error (.unknownOpcode 0xF185) ∧
    decodeWord 0xFFFF = .error (.unknownOpcode 0xFFFF) := ⟨rfl, rfl, rfl, rfl, rfl, rfl, rfl⟩

/-- The host's numbering: the first byte in memory is the high byte of the word. -/
theorem test_decodeTableWord : decodeTableWord 16 0x8014 = some (.addReg 0 1) ∧ tableBytes 16 0x8014 = [0x80, 0x14] := by
  decide

theorem test_decode_truncated : decode [0x60] = .error .truncated := rfl

/-! ## One step of each instruction -/

/-- The state after one step of the word `w`, placed where the step fetches. -/
def run1 (w : Nat) (s : State) : State :=
  match step (s.withFetchWord 16 w) with
  | .next t => t
  | _ => s

/-- T-SYS-2. -/
theorem test_sys :
    (run1 0x0FFF State.reset).pc = 0x0202 ∧ (run1 0x0FFF State.reset).ir = 0x0FFF := by
  decide

/-- T-RET-1. -/
theorem test_ret :
    let t := run1 0x00EE { State.reset with pc := 0x020C, sp := 1, stack := State.reset.stack.set 0 0x0206 }
    t.sp = 0 ∧ t.pc = 0x0206 ∧ t.slot 0 = 0x0206 := by
  decide

/-- T-RET-2. -/
theorem test_ret_empty :
    let t := run1 0x00EE State.reset
    t.run = .halted .stackUnderflow ∧ t.sp = 0 ∧ t.pc = 0x0200 := by
  decide

/-- T-JP-1. -/
theorem test_jp :
    (run1 0x1ABC State.reset).pc = 0x0ABC := by
  decide

/-- T-CALL-2. -/
theorem test_call :
    let t := run1 0x2300 { State.reset with pc := 0x0400, sp := 15 }
    t.slot 15 = 0x0402 ∧ t.sp = 16 ∧ t.pc = 0x0300 := by
  decide

/-- T-CALL-3. -/
theorem test_call_full :
    let t := run1 0x2300 { State.reset with pc := 0x0400, sp := 16 }
    t.run = .halted .stackOverflow ∧ t.sp = 16 ∧ t.pc = 0x0400 ∧ t.ir = 0x2300 ∧ t.slot 15 = 0 := by
  decide

/-- T-SE-1, T-SE-2. -/
theorem test_seImm :
    let s := { State.reset with pc := 0x0300 }.setReg 3 0x2A
    (run1 0x332A s).pc = 0x0304 ∧ (run1 0x332B s).pc = 0x0302 := by
  decide

/-- T-SNE-1, T-SNE-2. -/
theorem test_sneImm :
    let s := { State.reset with pc := 0x0300 }.setReg 3 0x2A
    (run1 0x432A s).pc = 0x0302 ∧ (run1 0x4300 s).pc = 0x0304 := by
  decide

/-- T-SER-1, T-SER-2. -/
theorem test_seReg :
    let s := { State.reset with pc := 0x0210 }.setReg 1 7
    (run1 0x5120 (s.setReg 2 7)).pc = 0x0214 ∧ (run1 0x5120 (s.setReg 2 8)).pc = 0x0212 := by
  decide

/-- T-SNER-1, T-SNER-2. -/
theorem test_sneReg :
    let s := { State.reset with pc := 0x0210 }.setReg 1 7
    (run1 0x9120 (s.setReg 2 8)).pc = 0x0214 ∧ (run1 0x9120 (s.setReg 2 7)).pc = 0x0212 := by
  decide

/-- T-JPV0-2, T-JPV0-3. -/
theorem test_jpV0 :
    (run1 0xBFFF (State.reset.setReg 0 0xFF)).pc = 0x10FE ∧ (run1 0xB300 (State.reset.setReg 3 0x55)).pc = 0x0300 := by
  decide

/-- T-LD-2. -/
theorem test_ldImm :
    (run1 0x6F00 (State.reset.setReg 0xF 0x01)).vf = 0x00 ∧ (run1 0x6AFF State.reset).reg 0xA = 0xFF := by
  decide

/-- T-ADDI-1, T-ADDI-3. -/
theorem test_addImm :
    let t := run1 0x7203 ((State.reset.setReg 2 0xFE).setReg 0xF 0x55)
    t.reg 2 = 0x01 ∧ t.vf = 0x55 ∧ (run1 0x7F02 (State.reset.setReg 0xF 0xFF)).vf = 0x01 := by
  decide

/-- T-MOV-1. -/
theorem test_ldReg :
    let t := run1 0x8340 (State.reset.setReg 4 0x99)
    t.reg 3 = 0x99 ∧ t.reg 4 = 0x99 := by
  decide

/-- T-OR-1. -/
theorem test_or :
    let t := run1 0x8011 (((State.reset.setReg 0 0xF0).setReg 1 0x0F).setReg 0xF 0x55)
    t.reg 0 = 0xFF ∧ t.vf = 0x55 := by
  decide

/-- T-AND-1. -/
theorem test_and :
    let t := run1 0x8012 (((State.reset.setReg 0 0xF3).setReg 1 0x3F).setReg 0xF 0x55)
    t.reg 0 = 0x33 ∧ t.vf = 0x55 := by
  decide

/-- T-XOR-1. -/
theorem test_xor :
    let t := run1 0x8013 (((State.reset.setReg 0 0xFF).setReg 1 0x0F).setReg 0xF 0x55)
    t.reg 0 = 0xF0 ∧ t.vf = 0x55 := by
  decide

/-- T-ADD-1, T-ADD-5. -/
theorem test_addReg :
    let t := run1 0x8014 ((State.reset.setReg 0 0xFF).setReg 1 0x01)
    let u := run1 0x8014 ((State.reset.setReg 0 0x7F).setReg 1 0x80)
    t.reg 0 = 0x00 ∧ t.vf = 1 ∧ u.reg 0 = 0xFF ∧ u.vf = 0 := by
  decide

/-- T-ADD-7, T-ADD-9. -/
theorem test_addReg_flag_wins :
    (run1 0x8F14 ((State.reset.setReg 0xF 0xFF).setReg 1 0x01)).vf = 0x01 ∧
    (run1 0x80F4 ((State.reset.setReg 0xF 0x01).setReg 0 0xFF)).reg 0 = 0x00 := by
  decide

/-- T-SUB-1, T-SUB-3. -/
theorem test_sub :
    let t := run1 0x8015 ((State.reset.setReg 0 0x05).setReg 1 0x07)
    let u := run1 0x8015 ((State.reset.setReg 0 0x05).setReg 1 0x05)
    t.reg 0 = 0xFE ∧ t.vf = 0 ∧ u.reg 0 = 0x00 ∧ u.vf = 1 := by
  decide

/-- T-SUB-8. -/
theorem test_sub_flag_wins :
    (run1 0x8F15 ((State.reset.setReg 0xF 0x07).setReg 1 0x05)).vf = 0x01 := by
  decide

/-- T-SUBN-1, T-SUBN-2. -/
theorem test_subn :
    let t := run1 0x8017 ((State.reset.setReg 0 0x05).setReg 1 0x07)
    let u := run1 0x8017 ((State.reset.setReg 0 0x07).setReg 1 0x05)
    t.reg 0 = 0x02 ∧ t.vf = 1 ∧ u.reg 0 = 0xFE ∧ u.vf = 0 := by
  decide

/-- T-SHR-2, T-SHR-5. -/
theorem test_shr :
    let t := run1 0x8576 ((State.reset.setReg 5 0x96).setReg 7 0xFF)
    t.reg 5 = 0x4B ∧ t.vf = 0 ∧ t.reg 7 = 0xFF ∧ (run1 0x8F06 (State.reset.setReg 0xF 0x03)).vf = 0x01 := by
  decide

/-- T-SHL-2, T-SHL-4. -/
theorem test_shl :
    let t := run1 0x850E (State.reset.setReg 5 0x4B)
    t.reg 5 = 0x96 ∧ t.vf = 0 ∧ (run1 0x8F0E (State.reset.setReg 0xF 0x81)).vf = 0x01 := by
  decide

/-- T-RND-1, T-RND-4, with the draw given. -/
theorem test_rnd :
    (State.reset.randomLoad 3 0x0F 0xA7).reg 3 = 0x07 ∧ (State.reset.randomLoad 0xF 0x81 0xFF).vf = 0x81 := by
  decide

/-- T-RND-2: kk = 0 gives 0 whatever the draw; the counter moves on. -/
theorem test_rnd_masked :
    (run1 0xC300 State.reset).draws = 1 ∧ (run1 0xC300 State.reset).pc = 0x0202 := by
  decide

/-- T-LDI-2. -/
theorem test_ldI :
    let t := run1 0xAFFF State.reset
    t.i = 0x0FFF ∧ t.pc = 0x0202 := by
  decide

/-- T-ADDI16-2, T-ADDI16-3. -/
theorem test_addI :
    let t := run1 0xF21E (({ State.reset with i := 0x0FFF }).setReg 2 0x01)
    t.i = 0x1000 ∧ t.vf = 0x00 ∧ (run1 0xF21E (({ State.reset with i := 0xFFFF }).setReg 2 0x01)).i = 0x0000 := by
  decide

/-- T-LDF-2, T-LDF-5. -/
theorem test_ldF :
    (run1 0xF029 (State.reset.setReg 0 0x0A)).i = 0x0032 ∧ (run1 0xF029 (State.reset.setReg 0 0xFF)).i = 0x04FB := by
  decide

/-- T-BCD-7. -/
theorem test_ldB :
    let t := run1 0xF033 (({ State.reset with i := 0x0FFD }).setReg 0 0x9C)
    t.mem.read 0xFFD = 1 ∧ t.mem.read 0xFFE = 5 ∧ t.mem.read 0xFFF = 6 ∧ t.run = .running := by
  decide

/-- T-BCD-8. -/
theorem test_ldB_fault :
    let t := run1 0xF033 (({ State.reset with i := 0x0FFE, mem := [(0xFFE, 0xAA), (0xFFF, 0xBB)] }).setReg 0 0x9C)
    t.run = .halted .addressingError ∧ t.mem.read 0xFFE = 0xAA ∧ t.mem.read 0xFFF = 0xBB ∧ t.pc = 0x0200 := by
  decide

/-- T-ST-BLK-1. -/
theorem test_ldMemVx :
    let t := run1 0xF155 ((({ State.reset with i := 0x0400 }.setReg 0 0x11).setReg 1 0x22).setReg 2 0x33)
    t.mem.read 0x400 = 0x11 ∧ t.mem.read 0x401 = 0x22 ∧ t.mem.read 0x402 = 0 ∧ t.i = 0x0400 := by
  decide

/-- T-ST-BLK-3. -/
theorem test_ldMemVx_fault :
    let t := run1 0xFF55 ({ State.reset with i := 0x0FF1 }.setReg 0 0x10)
    t.run = .halted .addressingError ∧ t.mem.read 0xFF1 = 0 := by
  decide

/-- T-LD-BLK-1. -/
theorem test_ldVxMem :
    let t := run1 0xF465 (State.reset.setReg 5 0xEE)
    t.reg 0 = 0xF0 ∧ t.reg 1 = 0x90 ∧ t.reg 4 = 0xF0 ∧ t.reg 5 = 0xEE ∧ t.i = 0 := by
  decide

/-- T-LD-BLK-2. -/
theorem test_ldVxMem_fault :
    let t := run1 0xF165 ((({ State.reset with i := 0x0FFF }).setReg 0 1).setReg 1 2)
    t.run = .halted .addressingError ∧ t.reg 0 = 1 ∧ t.reg 1 = 2 := by
  decide

/-- T-CLS-1. -/
theorem test_cls :
    let t := run1 0x00E0 (State.reset.setFB ((State.reset.fb.toggle 0 0).toggle 31 63))
    t.pixel 0 0 = false ∧ t.pixel 31 63 = false ∧ t.pc = 0x0202 := by
  decide

/-- T-DRW-5: column 63 + 1 wraps to 0, row 31 + 1 wraps to 0. -/
theorem test_drw_wraps :
    let t := run1 0xD012 ((({ State.reset with i := 0x0300, mem := [(0x300, 0xC0), (0x301, 0x80)] }).setReg 0 0xFF).setReg 1 0xFF)
    t.pixel 31 63 = true ∧ t.pixel 31 0 = true ∧ t.pixel 0 63 = true ∧ t.pixel 0 0 = false ∧ t.vf = 0 := by
  decide

/-- T-DRW-6. -/
theorem test_drw_collides :
    let t := run1 0xD011 ({ State.reset with i := 0x0300, mem := [(0x300, 0xC0)], fb := State.reset.fb.toggle 0 1 })
    t.pixel 0 0 = true ∧ t.pixel 0 1 = false ∧ t.vf = 1 := by
  decide

/-- T-KEY-1, T-KEY-3. -/
theorem test_skp :
    (run1 0xE09E ((({ State.reset with pc := 0x0220 }).setKey 5 true).setReg 0 0x05)).pc = 0x0224 ∧
    (run1 0xE09E ((({ State.reset with pc := 0x0220 }).setKey 0xA true).setReg 0 0x1A)).pc = 0x0224 := by
  decide

/-- T-KEY-6, T-KEY-7. -/
theorem test_sknp :
    (run1 0xE0A1 (({ State.reset with pc := 0x0220 }).setReg 0 0x05)).pc = 0x0224 ∧
    (run1 0xE0A1 ((({ State.reset with pc := 0x0220 }).setKey 5 true).setReg 0 0x05)).pc = 0x0222 := by
  decide

/-- T-KEY-4. -/
theorem test_ldVxK :
    let t := run1 0xF30A ((({ State.reset with pc := 0x0230 }).setKey 7 true).setKey 2 true)
    t.reg 3 = 0x02 ∧ t.pc = 0x0232 ∧ t.result = .ok := by
  decide

/-- T-KEY-5. -/
theorem test_ldVxK_waits :
    let t := run1 0xF30A (({ State.reset with pc := 0x0230, dt := 3 }).setReg 3 0x99)
    t.pc = 0x0230 ∧ t.reg 3 = 0x99 ∧ t.dt = 2 ∧ t.result = .waiting ∧ t.run = .running := by
  decide

/-- T-DT-4. -/
theorem test_ldVxDT :
    let t := run1 0xF107 { State.reset with dt := 5 }
    t.reg 1 = 0x05 ∧ t.dt = 0x04 := by
  decide

/-- T-DT-1, T-DT-2. -/
theorem test_ldDTVx :
    (run1 0xF015 (State.reset.setReg 0 0x03)).dt = 0x02 ∧ (run1 0xF015 { State.reset with dt := 9 }).dt = 0x00 := by
  decide

/-- T-ST-1, T-ST-3. -/
theorem test_ldSTVx :
    let t := run1 0xF018 (State.reset.setReg 0 0x01)
    let u := run1 0xF018 { State.reset with st := 1 }
    t.st = 0 ∧ t.beep = true ∧ u.st = 0 ∧ u.beep = false := by
  decide

/-- T-STEP-7, T-STEP-8. -/
theorem test_step_tick :
    let t := run1 0x0000 { State.reset with dt := 0xFF, st := 2 }
    let u := run1 0x0000 { State.reset with dt := 1, st := 1 }
    t.dt = 0xFE ∧ t.st = 1 ∧ t.beep = false ∧ u.dt = 0 ∧ u.st = 0 ∧ u.beep = true := by
  decide

/-- T-STEP-3. -/
theorem test_step_unknown :
    let t := run1 0xFFFF { State.reset with pc := 0x0300, dt := 5, st := 1 }
    t.run = .halted .unknownOpcode ∧ t.pc = 0x0300 ∧ t.ir = 0xFFFF ∧ t.dt = 5 ∧ t.st = 1 ∧ t.beep = false := by
  decide

/-- The state after a step, or the state itself where there is none. -/
def after (s : State) : State :=
  match step s with
  | .next t => t
  | _ => s

/-- T-STEP-1: the fetch at 0x0FFF faults. -/
theorem test_step_fetchFault :
    let t := after { State.reset with pc := 0x0FFF, dt := 5 }
    t.run = .halted .addressingError ∧ t.pc = 0x0FFF ∧ t.ir = 0 ∧ t.dt = 5 ∧ t.result = .fault .addressingError := by
  decide

/-- T-STEP-4: a step of a halted machine. -/
theorem test_step_halted :
    let t := after { State.reset with run := .halted .unknownOpcode, dt := 5, st := 1 }
    t.result = .halted ∧ t.beep = false ∧ t.dt = 5 ∧ t.st = 1 ∧ t.run = .halted .unknownOpcode := by
  decide

/-- T-STEP-5: an odd PC is legal. -/
theorem test_step_oddPC :
    let t := run1 0x6107 { State.reset with pc := 0x0201 }
    t.reg 1 = 0x07 ∧ t.pc = 0x0203 := by
  decide

/-- T-LOAD-1 and T-LOAD-2 in small: a program of two bytes; one byte too many. -/
theorem test_loadProgram :
    (State.reset.loadProgram [0x60, 0x01]).map (fun t => (t.mem.read 0x200, t.mem.read 0x201, t.mem.read 0)) =
      some (0x60, 0x01, 0xF0) ∧
    State.reset.loadProgram (List.replicate 3585 0x12) = none := by
  refine ⟨by decide, ?_⟩
  unfold State.loadProgram
  rw [if_neg (by rw [List.length_replicate]; decide)]

/-- T-RESET-1. -/
theorem test_hostReset :
    let t := ({ State.reset with run := .halted .stackOverflow, mem := [(0, 7), (0x200, 1)] }).hostReset
    t.run = .running ∧ t.mem.read 0 = 0xF0 ∧ t.mem.read 0x4F = 0x80 ∧ t.mem.read 0x50 = 0 ∧ t.mem.read 0x200 = 0 := by
  decide

/-! ## Witnesses: every statement with hypotheses is met by a concrete state and operands -/

/-- The machine after Reset with one word at the entry point. -/
abbrev withWord (w : Word) : State :=
  { State.reset with mem := (Memory.writeBytes [] 0x200 (bytesOfWord w)) }

/-- DecodeOfEncodeIsTheInstruction, EncodeOfDecodeIsTheWord. -/
theorem witness_roundTrips : (Instr.drw 15 15 15).WellFormed ∧ decodeWord 0xDFFF = .ok (.drw 15 15 15) :=
  ⟨rfl, rfl⟩

/-- StepRunsTheDecodedInstruction, at the last place an instruction fits. -/
theorem witness_stepRuns :
    let s : State := { State.reset with pc := 0x0FFE }
    s.run = .running ∧ s.pc.toNat + 2 ≤ 4096 ∧ (Instr.sys 0).WellFormed ∧
      decode (s.mem.readBytes s.pc.toNat 2) = .ok (.sys 0, []) :=
  ⟨rfl, by decide, rfl, rfl⟩

/-- FetchReadsTwoBytesOrFaults: both sides of the bound. -/
theorem witness_fetch :
    (0x0FFE : Word).toNat + 2 ≤ 4096 ∧
    ({ State.reset with pc := 0x0FFF } : State).pc.toNat + 2 > 4096 ∧
    ({ State.reset with pc := 0x0FFF } : State).run = .running := by
  decide

/-- UnknownWordHalts. -/
theorem witness_unknownWord :
    let s := withWord 0xFFFF
    s.run = .running ∧ s.pc.toNat + 2 ≤ 4096 ∧ decodeWord s.wordAtPC = .error (.unknownOpcode 0xFFFF) :=
  ⟨rfl, by decide, rfl⟩

/-- HaltedMachineStaysHalted, with k at least 1. -/
theorem witness_halted :
    ({ State.reset with run := .halted .stackOverflow } : State).run = .halted .stackOverflow ∧ 1 ≥ 1 :=
  ⟨rfl, Nat.le_refl 1⟩

/-- FaultEntryChangesNothingElse: a fault of the execute phase, with the fetch inside memory. -/
theorem witness_faultEntry :
    ∃ t, (withWord 0x00EE).run = .running ∧ step (withWord 0x00EE) = .next t ∧
      t.run = .halted .stackUnderflow ∧ (withWord 0x00EE).pc.toNat + 2 ≤ 4096 :=
  ⟨after (withWord 0x00EE), rfl, rfl, rfl, by decide⟩

/-- StepFaultsExactlyAsTheTableSays, InstructionRegisterHoldsTheFetchedWord, StepOutputsAgreeWithRun,
NothingReadsTheInstructionRegister, HostOperationsKeepTheInvariants: a running machine steps. -/
theorem witness_stepOfRunning :
    ∃ t, State.reset.run = .running ∧ step State.reset = .next t ∧
      hostOp .step State.reset = .next (t, .stepped t.result t.beep) :=
  ⟨after State.reset, rfl, rfl, rfl⟩

/-- The codes of the table of R245: 0 before any fault, 1 after an illegal word, 2 after a fetch at 0x0FFF,
3 after CALL on a full stack, 4 after RET on an empty one. -/
theorem test_haltCodes :
    State.reset.haltCode = 0 ∧
    (after (withWord 0xFFFF)).haltCode = 1 ∧
    (after { State.reset with pc := 0x0FFF }).haltCode = 2 ∧
    (after { withWord 0x2300 with sp := 16 }).haltCode = 3 ∧
    (after (withWord 0x00EE)).haltCode = 4 :=
  ⟨rfl, rfl, rfl, rfl, rfl⟩

/-- TimersTickOncePerStep: LD DT, LD ST and an instruction that is neither. -/
theorem witness_timers :
    (∃ t, step (withWord 0xF015) = .next t ∧ t.run = .running ∧
      decodeWord (withWord 0xF015).wordAtPC = .ok (.ldDTVx 0)) ∧
    (∃ t, step (withWord 0xF018) = .next t ∧ t.run = .running ∧
      decodeWord (withWord 0xF018).wordAtPC = .ok (.ldSTVx 0)) ∧
    ∃ t, step (withWord 0x6001) = .next t ∧ t.run = .running ∧
      decodeWord (withWord 0x6001).wordAtPC = .ok (.ldImm 0 1) :=
  ⟨⟨after (withWord 0xF015), rfl, rfl, rfl⟩, ⟨after (withWord 0xF018), rfl, rfl, rfl⟩,
   after (withWord 0x6001), rfl, rfl, rfl⟩

/-- DrawsMatterOnlyToRnd. -/
theorem witness_draws :
    (∀ x kk, decodeWord State.reset.wordAtPC ≠ .ok (.rnd x kk)) ∧ ∃ t, step State.reset = .next t :=
  ⟨fun _ _ h => Instr.noConfusion (Except.ok.inj (show Except.ok (Instr.sys 0) = _ from h)), after State.reset, rfl⟩

/-- StepKeepsTheInvariant, StepKeepsFaultsExplained: the state after Reset meets the premises and steps. -/
theorem witness_invariants : State.reset.Inv ∧ State.reset.FaultExplained ∧ ∃ t, step State.reset = .next t :=
  ⟨⟨rfl, by decide, fun k h => absurd h (Nat.not_lt_zero k.val)⟩, trivial, after State.reset, rfl⟩

/-- RegistersHaveOnlyTheirWriters. -/
theorem witness_registerWriter :
    ∃ t, step (withWord 0x6001) = .next t ∧ t.reg 0 ≠ (withWord 0x6001).reg 0 :=
  ⟨after (withWord 0x6001), rfl, by decide⟩

/-- IndexRegisterHasThreeWriters. -/
theorem witness_indexWriter : ∃ t, step (withWord 0xA300) = .next t ∧ t.i ≠ (withWord 0xA300).i :=
  ⟨after (withWord 0xA300), rfl, by decide⟩

/-- StackHasTwoWriters: a CALL changes a slot and SP. -/
theorem witness_stackWriter :
    ∃ t, step (withWord 0x2300) = .next t ∧ t.slot 0 ≠ (withWord 0x2300).slot 0 ∧
      t.sp ≠ (withWord 0x2300).sp :=
  ⟨after (withWord 0x2300), rfl, by decide, by decide⟩

/-- ScreenAndKeysHaveOnlyTheirWriters: a DRW of glyph 0 changes a pixel. -/
theorem witness_screenWriter :
    ∃ t, step (withWord 0xD005) = .next t ∧ t.pixel 0 0 ≠ (withWord 0xD005).pixel 0 0 :=
  ⟨after (withWord 0xD005), rfl, by decide⟩

/-- MemoryHasTwoWriters: LD B at address 0 changes the glyph table. -/
theorem witness_memoryWriter :
    ∃ t, step (withWord 0xF033) = .next t ∧ t.mem.read 0 ≠ (withWord 0xF033).mem.read 0 :=
  ⟨after (withWord 0xF033), rfl, by decide⟩

/-- FlagRegisterAfterEveryInstruction: a flag writer, and an instruction that names another register. -/
theorem witness_flag :
    (∃ t, exec (.addReg 0 1) State.reset = .next t) ∧ (∀ x y n, Instr.addReg 0 1 ≠ .drw x y n) ∧
    (∃ t, exec (.ldImm 0 1) State.reset = .next t) ∧ ¬ isDestination 0xF (.ldImm 0 1) :=
  ⟨⟨_, rfl⟩, fun _ _ _ h => Instr.noConfusion h, ⟨_, rfl⟩, fun h => absurd (show (0xF : RegIdx) = 0 from h) (by decide)⟩

/-- CallPushesAndJumps, ReturnResumesAfterCall: the last free slot. -/
theorem witness_call :
    ({ State.reset with sp := 15 } : State).sp.val = (15 : Fin 16).val ∧
    ({ State.reset with sp := 15 } : State).sp.val < 16 ∧
    ∃ t, exec (.call 0x300) { State.reset with sp := 15 } = .next t :=
  ⟨rfl, by decide, _, rfl⟩

/-- ReturnPopsIntoPC: the full stack. -/
theorem witness_return : ({ State.reset with sp := 16 } : State).sp.val = (15 : Fin 16).val + 1 := rfl

/-- StackBoundsAreFaults: both bounds. -/
theorem witness_stackBounds :
    ({ State.reset with sp := 16 } : State).sp.val = 16 ∧ State.reset.sp.val = 0 := ⟨rfl, rfl⟩

/-- StoreDecimalDigits, StoreRegisterBlock, LoadRegisterBlock: the last place that fits and the first that
does not. -/
theorem witness_transfers :
    ({ State.reset with i := 0x0FFD } : State).base + 3 ≤ 4096 ∧
    ({ State.reset with i := 0x0FFE } : State).base + 3 > 4096 ∧
    ({ State.reset with i := 0x0FF0 } : State).base + (0xF : RegIdx).toNat + 1 ≤ 4096 ∧
    ({ State.reset with i := 0x0FF1 } : State).base + (0xF : RegIdx).toNat + 1 > 4096 := by
  decide

/-- StoredBytesAreFetchedNext: the store of V[0], V[1] at PC + 2. -/
theorem witness_storedBytes :
    let s : State := { State.reset with i := 0x0202 }
    ∃ t, exec (.ldMemVx 1) s = .next t ∧ s.base + (1 : RegIdx).toNat + 1 ≤ 4096 ∧
      (0 : RegIdx).toNat + 1 ≤ (1 : RegIdx).toNat ∧ t.pc.toNat = s.base + (0 : RegIdx).toNat :=
  ⟨_, rfl, by decide, by decide, by decide⟩

/-- WritesAreWholeOrFault, ReadsAreWholeOrFault: one byte at the last address, and one past it. -/
theorem witness_accesses :
    ([0xAA] : List Byte).length ≥ 1 ∧ 4095 + ([0xAA] : List Byte).length ≤ 4096 ∧
    ¬ 4096 + ([0xAA] : List Byte).length ≤ 4096 := by
  decide

/-- DrawTogglesTheSpritePixels: no rows at the top address, the last sprite that fits, the first that does
not; a pixel under a 1 bit that is on, and a screen with none on. -/
theorem witness_draw :
    ¬ accessFaults 0xFFFF (0 : Height).toNat ∧ ¬ accessFaults 0x0FFD (3 : Height).toNat ∧
    accessFaults 0x0FFE (3 : Height).toNat ∧
    (∃ r c, spriteBit { State.reset with fb := State.reset.fb.toggle 0 0 } 0 0 1 r c ∧
      ({ State.reset with fb := State.reset.fb.toggle 0 0 } : State).pixel r c = true) ∧
    (∀ r c, spriteBit State.reset 0 0 0 r c → State.reset.pixel r c = false) := by
  refine ⟨fun h => absurd h.1 (by decide), fun h => absurd h.2 (by decide), ⟨by decide, by decide⟩,
    ⟨0, 0, ⟨0, 0, by decide, by decide, by decide, rfl, rfl⟩, by decide⟩, ?_⟩
  rintro r c ⟨i, _, hi, _⟩
  exact absurd hi (Nat.not_lt_zero i)

/-- DrawingTwiceRestoresTheScreen. -/
theorem witness_drawTwice :
    (0 : RegIdx) ≠ 0xF ∧ (1 : RegIdx) ≠ 0xF ∧ ¬ accessFaults State.reset.base (5 : Height).toNat ∧
    ∃ t u, exec (.drw 0 1 5) State.reset = .next t ∧ exec (.drw 0 1 5) t = .next u :=
  ⟨by decide, by decide, fun h => absurd h.2 (by decide), _, _, rfl, rfl⟩

/-- KeySkipsTestTheLatch: a register value above 15. -/
theorem witness_keySkip : (0xA : KeyIdx).toNat = ((State.reset.setReg 0 0x1A).reg 0).toNat % 16 := by decide

/-- KeyWaitRepeatsUntilAKey: the lowest of two keys, and no key with the wait at PC. -/
theorem witness_keyWait :
    (let s := (State.reset.setKey 15 true).setKey 7 true
     s.key 7 = true ∧ ∀ j : KeyIdx, j.toNat < (7 : KeyIdx).toNat → s.key j = false) ∧
    (let s := withWord 0xF30A
     (∀ k, s.key k = false) ∧ s.run = .running ∧ s.pc.toNat + 2 ≤ 4096 ∧
      decodeWord s.wordAtPC = .ok (.ldVxK 3)) :=
  ⟨⟨by decide, by decide⟩, by decide, rfl, by decide, rfl⟩

/-- LoadProgramIsABlockWrite: the largest program, and one byte more. -/
theorem witness_loadProgram :
    (List.replicate 3584 (0x12 : Byte)).length ≤ 3584 ∧ (List.replicate 3585 (0x12 : Byte)).length > 3584 := by
  rw [List.length_replicate, List.length_replicate]
  decide

end Sys2Proof.Tests
end

/-!
SUPPORT. The frame of the machine: one rule per state operation for what it leaves unchanged, the parts that
the execute phase of each instruction writes, and the ends of a step. Then the statements of
`10_state.md` about the invariants of the state and about who writes what.
-/

namespace Sys2Proof.Machine

/-! ## One frame rule per state operation -/

section Frames

variable {W : Part → Prop} {s t : State}

theorem ChangesOnly.refl : ChangesOnly W s s := fun p _ => by cases p <;> rfl

theorem Part.Kept.trans {p : Part} {u : State} (h : p.Kept s t) (h' : p.Kept t u) : p.Kept s u := by
  cases p <;> exact Eq.trans h' h

/-- A part that differs is one of those that may change. -/
theorem ChangesOnly.of_not_kept (h : ChangesOnly W s t) {p : Part} (hk : ¬ p.Kept s t) : W p :=
  Classical.byContradiction fun hw => hk (h p hw)

theorem ChangesOnly.setPC (h : ChangesOnly W s t) (hw : W .pc) (a : Word) :
    ChangesOnly W s (t.setPC a) := by
  intro p hp
  cases p with
  | pc => exact absurd hw hp
  | _ => exact h _ hp

theorem ChangesOnly.advance (h : ChangesOnly W s t) (hw : W .pc) : ChangesOnly W s t.advance :=
  h.setPC hw _

theorem ChangesOnly.skipIf (h : ChangesOnly W s t) (hw : W .pc) (c : Bool) :
    ChangesOnly W s (t.skipIf c) :=
  h.setPC hw _

theorem ChangesOnly.setI (h : ChangesOnly W s t) (hw : W .index) (a : Word) :
    ChangesOnly W s (t.setI a) := by
  intro p hp
  cases p with
  | index => exact absurd hw hp
  | _ => exact h _ hp

theorem ChangesOnly.setReg (h : ChangesOnly W s t) {x : RegIdx} (hw : W (.reg x)) (b : Byte) :
    ChangesOnly W s (t.setReg x b) := by
  intro p hp
  cases p with
  | reg r =>
    have hne : r ≠ x := fun e => hp (e ▸ hw)
    exact (State.reg_setReg_ne t b hne).trans (h _ hp)
  | _ => exact h _ hp

theorem ChangesOnly.setResultFlag (h : ChangesOnly W s t) {x : RegIdx} (hx : W (.reg x))
    (hf : W (.reg 0xF)) (b f : Byte) : ChangesOnly W s (t.setResultFlag x b f) :=
  (h.setReg hx b).setReg hf f

/-- Loading a block of bytes writes the registers from V[k] on, one for each byte. -/
theorem ChangesOnly.loadRegs (h : ChangesOnly W s t) {k : Nat} {bs : List Byte}
    (hw : ∀ j, k ≤ j → j < k + bs.length → W (.reg (BitVec.ofNat 4 j))) :
    ChangesOnly W s (t.loadRegs k bs) := by
  induction bs generalizing t k with
  | nil => exact h
  | cons b bs ih =>
    rw [List.length_cons] at hw
    exact ih (h.setReg (hw k (Nat.le_refl k) (by omega)) b) fun j h1 h2 => hw j (by omega) (by omega)

theorem ChangesOnly.setDT (h : ChangesOnly W s t) (hw : W .dt) (b : Byte) :
    ChangesOnly W s (t.setDT b) := by
  intro p hp
  cases p with
  | dt => exact absurd hw hp
  | _ => exact h _ hp

theorem ChangesOnly.setST (h : ChangesOnly W s t) (hw : W .st) (b : Byte) :
    ChangesOnly W s (t.setST b) := by
  intro p hp
  cases p with
  | st => exact absurd hw hp
  | _ => exact h _ hp

theorem ChangesOnly.setFB (h : ChangesOnly W s t) (hw : ∀ r c, W (.pixel r c)) (fb : Frame) :
    ChangesOnly W s (t.setFB fb) := by
  intro p hp
  cases p with
  | pixel r c => exact absurd (hw r c) hp
  | _ => exact h _ hp

theorem ChangesOnly.putBytes (h : ChangesOnly W s t) {a : Nat} {bs : List Byte}
    (hw : ∀ c, a ≤ c → c < a + bs.length → W (.byte c)) : ChangesOnly W s (t.putBytes a bs) := by
  intro p hp
  cases p with
  | byte c =>
    have hout : ¬ (a ≤ c ∧ c < a + bs.length) := fun hc => hp (hw c hc.1 hc.2)
    exact ((Memory.read_writeBytes t.mem a c bs).trans (if_neg hout)).trans (h _ hp)
  | _ => exact h _ hp

theorem ChangesOnly.wait (h : ChangesOnly W s t) (hw : W .result) : ChangesOnly W s t.wait := by
  intro p hp
  cases p with
  | result => exact absurd hw hp
  | _ => exact h _ hp

theorem ChangesOnly.nextDraw (h : ChangesOnly W s t) (hw : W .draws) : ChangesOnly W s t.nextDraw := by
  intro p hp
  cases p with
  | draws => exact absurd hw hp
  | _ => exact h _ hp

theorem ChangesOnly.latch (h : ChangesOnly W s t) (hi : W .ir) (hr : W .result) (hb : W .beep)
    (w : Word) : ChangesOnly W s (t.latch w) := by
  intro p hp
  cases p with
  | ir => exact absurd hi hp
  | result => exact absurd hr hp
  | beep => exact absurd hb hp
  | _ => exact h _ hp

theorem ChangesOnly.tick (h : ChangesOnly W s t) (hd : W .dt) (hs : W .st) (hb : W .beep) :
    ChangesOnly W s t.tick := by
  intro p hp
  cases p with
  | dt => exact absurd hd hp
  | st => exact absurd hs hp
  | beep => exact absurd hb hp
  | _ => exact h _ hp

theorem ChangesOnly.takeFault (h : ChangesOnly W s t) (hw : ∀ p, faultParts p → W p) (f : HaltReason) :
    ChangesOnly W s (t.takeFault f) := by
  intro p hp
  cases p with
  | run => exact absurd (hw _ (.inl rfl)) hp
  | result => exact absurd (hw _ (.inr (.inl rfl))) hp
  | beep => exact absurd (hw _ (.inr (.inr rfl))) hp
  | _ => exact h _ hp

theorem ChangesOnly.idle (h : ChangesOnly W s t) (hr : W .result) (hb : W .beep) :
    ChangesOnly W s t.idle := by
  intro p hp
  cases p with
  | result => exact absurd hr hp
  | beep => exact absurd hb hp
  | _ => exact h _ hp

end Frames

/-! ## The stack after a push and after a pop -/

/-- The state after `push(a)` with a slot free. -/
def State.pushed (s : State) (a : Word) (h : s.sp.val < 16) : State :=
  { s with stack := s.stack.set s.sp.val a h, sp := ⟨s.sp.val + 1, Nat.succ_lt_succ h⟩ }

/-- The state after `pop()` of slot `k`. -/
def State.popped (s : State) (k : Fin 16) : State := { s with sp := ⟨k.val, Nat.lt_succ_of_lt k.isLt⟩ }

@[simp] theorem State.pushed_sp (s : State) (a : Word) (h : s.sp.val < 16) :
    (s.pushed a h).sp.val = s.sp.val + 1 := rfl

@[simp] theorem State.popped_sp (s : State) (k : Fin 16) : (s.popped k).sp.val = k.val := rfl

/-- Every slot after a push. -/
theorem State.slot_pushed (s : State) (a : Word) (h : s.sp.val < 16) (k : Fin 16) :
    (s.pushed a h).slot k = if k.val = s.sp.val then a else s.slot k := by
  simp [State.slot, State.pushed, Vector.getElem_set, eq_comm]

theorem ChangesOnly.pushed {W : Part → Prop} {s : State} (h : s.sp.val < 16) (hsp : W .sp)
    (hk : ∀ k : Fin 16, k.val = s.sp.val → W (.slot k)) (a : Word) : ChangesOnly W s (s.pushed a h) := by
  intro p hp
  cases p with
  | sp => exact absurd hsp hp
  | slot k =>
    have hne : k.val ≠ s.sp.val := fun e => hp (hk k e)
    exact (s.slot_pushed a h k).trans (if_neg hne)
  | _ => rfl

theorem ChangesOnly.popped {W : Part → Prop} {s t : State} (h : ChangesOnly W s t) (hw : W .sp)
    (k : Fin 16) : ChangesOnly W s (t.popped k) := by
  intro p hp
  cases p with
  | sp => exact absurd hw hp
  | _ => exact h _ hp

/-! ## The fault conditions of the execute phase, by reason -/

section FaultConditions

variable {s : State} {i : Instr}

theorem not_accessFaults_iff {a n : Nat} : ¬ accessFaults a n ↔ n = 0 ∨ a + n ≤ 4096 := by
  unfold accessFaults; omega

theorem not_executeFault_unknownOpcode : ¬ executeFault s i .unknownOpcode := by
  cases i <;> exact id

theorem executeFault_addressingError :
    executeFault s i .addressingError ↔ accessFaults s.base (accessLength i) := by
  cases i <;> rfl

theorem executeFault_stackOverflow :
    executeFault s i .stackOverflow ↔ s.sp.val = 16 ∧ ∃ nnn, i = .call nnn := by
  cases i <;> simp [executeFault]

theorem executeFault_stackUnderflow :
    executeFault s i .stackUnderflow ↔ s.sp.val = 0 ∧ i = .ret := by
  cases i <;> simp [executeFault]

theorem sp_lt_of_noFault {nnn : Addr12} (hn : ∀ f, ¬ executeFault s (.call nnn) f) : s.sp.val < 16 := by
  have h : s.sp.val ≠ 16 := fun e => hn .stackOverflow e
  omega

theorem slot_in_use_of_noFault (hn : ∀ f, ¬ executeFault s .ret f) :
    ∃ k : Fin 16, s.sp.val = k.val + 1 := by
  have h : s.sp.val ≠ 0 := fun e => hn .stackUnderflow e
  exact ⟨⟨s.sp.val - 1, by omega⟩, by simp; omega⟩

theorem access_fits_of_noFault (hn : ∀ f, ¬ executeFault s i f) :
    ¬ accessFaults s.base (accessLength i) :=
  fun h => hn .addressingError (executeFault_addressingError.2 h)

end FaultConditions

/-! ## What the instructions that can fault or wait answer where they do not fault -/

section Answers

variable {s : State}

theorem exec_call {nnn : Addr12} (h : s.sp.val < 16) :
    exec (.call nnn) s = .next ((s.pushed (s.pc + 2) h).setPC (target nnn)) := by
  rw [exec, execCall, State.push_ok _ _ h]; rfl

theorem exec_ret {k : Fin 16} (h : s.sp.val = k.val + 1) :
    exec .ret s = .next ((s.popped k).setPC (s.slot k)) := by
  rw [exec, execRet, State.pop_ok _ _ h]; rfl

theorem exec_drw {x y : RegIdx} {n : Height} (h : ¬ accessFaults s.base n.toNat) :
    exec (.drw x y n) s =
      .next ((s.setFB (s.drawSprite x y (s.mem.readBytes s.base n.toNat)).1).setVF
        (collisionFlag (s.drawSprite x y (s.mem.readBytes s.base n.toNat)).2)).advance := by
  rw [exec, execDrw, State.memRead_eq, if_pos (not_accessFaults_iff.1 h)]; rfl

theorem exec_ldB {x : RegIdx} (h : ¬ accessFaults s.base 3) :
    exec (.ldB x) s = .next (s.putBytes s.base (bcdDigits (s.reg x))).advance := by
  have hlen : (bcdDigits (s.reg x)).length = 3 := rfl
  rw [exec, execLdB, State.memWrite_eq, hlen, if_pos (not_accessFaults_iff.1 h)]; rfl

theorem exec_ldMemVx {x : RegIdx} (h : ¬ accessFaults s.base (x.toNat + 1)) :
    exec (.ldMemVx x) s = .next (s.putBytes s.base (s.regBlock x)).advance := by
  rw [exec, execLdMemVx, State.memWrite_eq, State.regBlock_length, blockLength,
    if_pos (not_accessFaults_iff.1 h)]; rfl

theorem exec_ldVxMem {x : RegIdx} (h : ¬ accessFaults s.base (x.toNat + 1)) :
    exec (.ldVxMem x) s = .next (s.loadRegs 0 (s.mem.readBytes s.base (x.toNat + 1))).advance := by
  rw [exec, execLdVxMem, State.memRead_eq, blockLength, if_pos (not_accessFaults_iff.1 h)]; rfl

theorem exec_ldVxK_none {x : RegIdx} (h : s.anyPressed = none) : exec (.ldVxK x) s = .next s.wait := by
  rw [exec, execLdVxK, h]

theorem exec_ldVxK_some {x : RegIdx} {k : KeyIdx} (h : s.anyPressed = some k) :
    exec (.ldVxK x) s = .next (s.setReg x (k.setWidth 8)).advance := by
  rw [exec, execLdVxK, h]

end Answers

/-! ## What the execute phase writes -/

/-- The parts that the execute phase of an instruction may write where it raises no fault. -/
def execWrites (s : State) (i : Instr) : Part → Prop
  | .reg r =>
    isDestination r i ∨ (r = 0xF ∧ ((arithmeticFlag s i).isSome = true ∨ ∃ x y n, i = .drw x y n))
  | .pc => True
  | .index => (∃ nnn, i = .ldI nnn) ∨ (∃ x, i = .addI x) ∨ ∃ x, i = .ldF x
  | .slot k => k.val = s.sp.val ∧ ∃ nnn, i = .call nnn
  | .sp => (∃ nnn, i = .call nnn) ∨ i = .ret
  | .dt => ∃ x, i = .ldDTVx x
  | .st => ∃ x, i = .ldSTVx x
  | .pixel _ _ => i = .cls ∨ ∃ x y n, i = .drw x y n
  | .byte a => s.base ≤ a ∧ a < s.base + storeLength i ∧ a < 4096
  | .result => ∃ x, i = .ldVxK x
  | .draws => ∃ x kk, i = .rnd x kk
  | .ir | .run | .key _ | .beep => False

theorem Completes.of_exec {i : Instr} {s t : State} {P : State → Prop} (h : Completes i s P)
    (ht : exec i s = .next t) : P t := by
  obtain ⟨u, hu, hP⟩ := h
  cases hu.symm.trans ht
  exact hP

/-- A store that fits in memory writes no byte outside its range, and none past the end. -/
theorem ChangesOnly.store {i : Instr} {s : State} {bs : List Byte} (hlen : bs.length = storeLength i)
    (h : ¬ accessFaults s.base (storeLength i)) :
    ChangesOnly (execWrites s i) s (s.putBytes s.base bs) := by
  refine ChangesOnly.refl.putBytes fun a h1 h2 => ?_
  rw [hlen] at h2
  have := not_accessFaults_iff.1 h
  exact ⟨h1, h2, by omega⟩

/-- Where no fault condition holds, the execute phase changes only what `execWrites` says. -/
theorem exec_changesOnly {i : Instr} {s : State} (hn : ∀ f, ¬ executeFault s i f) :
    Completes i s (ChangesOnly (execWrites s i) s) := by
  have h0 : ChangesOnly (execWrites s i) s s := .refl
  cases i with
  | cls => exact ⟨_, rfl, (h0.setFB (fun _ _ => .inl rfl) _).advance trivial⟩
  | ret =>
    obtain ⟨k, hk⟩ := slot_in_use_of_noFault hn
    exact ⟨_, exec_ret hk, (h0.popped (.inr rfl) k).setPC trivial _⟩
  | call nnn =>
    exact ⟨_, exec_call (sp_lt_of_noFault hn),
      (ChangesOnly.pushed _ (.inl ⟨nnn, rfl⟩) (fun _ hk => ⟨hk, nnn, rfl⟩) _).setPC trivial _⟩
  | sys _ => exact ⟨_, rfl, h0.advance trivial⟩
  | jp _ | jpV0 _ => exact ⟨_, rfl, h0.setPC trivial _⟩
  | seImm _ _ | sneImm _ _ | seReg _ _ | sneReg _ _ | skp _ | sknp _ =>
    exact ⟨_, rfl, h0.skipIf trivial _⟩
  | ldImm _ _ | addImm _ _ | ldReg _ _ | orReg _ _ | andReg _ _ | xorReg _ _ | ldVxDT _ =>
    exact ⟨_, rfl, (h0.setReg (.inl rfl) _).advance trivial⟩
  | addReg _ _ | subReg _ _ | shr _ _ | subn _ _ | shl _ _ =>
    exact ⟨_, rfl, (h0.setResultFlag (.inl rfl) (.inr ⟨rfl, .inl rfl⟩) _ _).advance trivial⟩
  | rnd x kk => exact ⟨_, rfl, ((h0.setReg (.inl rfl) _).advance trivial).nextDraw ⟨x, kk, rfl⟩⟩
  | ldI nnn => exact ⟨_, rfl, (h0.setI (.inl ⟨nnn, rfl⟩) _).advance trivial⟩
  | addI x => exact ⟨_, rfl, (h0.setI (.inr (.inl ⟨x, rfl⟩)) _).advance trivial⟩
  | ldF x => exact ⟨_, rfl, (h0.setI (.inr (.inr ⟨x, rfl⟩)) _).advance trivial⟩
  | ldDTVx x => exact ⟨_, rfl, (h0.setDT ⟨x, rfl⟩ _).advance trivial⟩
  | ldSTVx x => exact ⟨_, rfl, (h0.setST ⟨x, rfl⟩ _).advance trivial⟩
  | drw x y n =>
    have hd : ∃ x' y' n', Instr.drw x y n = .drw x' y' n' := ⟨x, y, n, rfl⟩
    exact ⟨_, exec_drw (access_fits_of_noFault hn),
      ((h0.setFB (fun _ _ => .inr hd) _).setReg (.inr ⟨rfl, .inr hd⟩) _).advance trivial⟩
  | ldB x =>
    have hf := access_fits_of_noFault hn
    exact ⟨_, exec_ldB hf, (ChangesOnly.store rfl hf).advance trivial⟩
  | ldMemVx x =>
    have hf := access_fits_of_noFault hn
    exact ⟨_, exec_ldMemVx hf, (ChangesOnly.store (s.regBlock_length x) hf).advance trivial⟩
  | ldVxMem x =>
    refine ⟨_, exec_ldVxMem (access_fits_of_noFault hn),
      (h0.loadRegs fun j _ hj => .inl ?_).advance trivial⟩
    rw [Memory.readBytes_length] at hj
    have : (BitVec.ofNat 4 j).toNat ≤ j := Nat.mod_le _ _
    exact show (BitVec.ofNat 4 j).toNat ≤ x.toNat by omega
  | ldVxK x =>
    cases hk : s.anyPressed with
    | none => exact ⟨_, exec_ldVxK_none hk, h0.wait ⟨x, rfl⟩⟩
    | some k => exact ⟨_, exec_ldVxK_some hk, (h0.setReg (.inl rfl) _).advance trivial⟩

/-! ## The ends of a step -/

/-- The five ways a step of `s` can end (R129, R131, R250), each with the state it leaves. -/
inductive StepEnd (s : State) : State → Prop
  /-- The machine was halted. -/
  | idle {f : HaltReason} (hr : s.run = .halted f) : StepEnd s s.idle
  /-- The fetch faulted. -/
  | fetchFault (hr : s.run = .running) (hp : s.pc.toNat + 2 > 4096) :
      StepEnd s (s.takeFault .addressingError)
  /-- The word fetched is illegal. -/
  | unknownWord {e : DecodeError} (hr : s.run = .running) (hp : s.pc.toNat + 2 ≤ 4096)
      (hd : decodeWord s.wordAtPC = .error e) :
      StepEnd s ((s.latch s.wordAtPC).takeFault .unknownOpcode)
  /-- The execute phase raised a fault. -/
  | executeFault {i : Instr} {f : HaltReason} (hr : s.run = .running) (hp : s.pc.toNat + 2 ≤ 4096)
      (hd : decodeWord s.wordAtPC = .ok i) (hf : executeFault (s.latch s.wordAtPC) i f) :
      StepEnd s ((s.latch s.wordAtPC).takeFault f)
  /-- The execute phase completed and the timers ticked. -/
  | completed {i : Instr} {u : State} (hr : s.run = .running) (hp : s.pc.toNat + 2 ≤ 4096)
      (hd : decodeWord s.wordAtPC = .ok i) (hn : ∀ f, ¬ executeFault (s.latch s.wordAtPC) i f)
      (hx : exec i (s.latch s.wordAtPC) = .next u) (hu : u.run = .running) : StepEnd s u.tick

/-- Every step answers a next state, by one of the five ways. -/
theorem step_total (s : State) : ∃ t, step s = .next t ∧ StepEnd s t := by
  rcases s.run.running_or_halted with hr | ⟨f, hr⟩
  · by_cases hp : s.pc.toNat + 2 ≤ 4096
    · rw [step_fetched hr hp]
      cases hd : decodeWord s.wordAtPC with
      | error e => exact ⟨_, rfl, .unknownWord hr hp hd⟩
      | ok i =>
        obtain ⟨u, hx, ⟨hu, hn⟩ | ⟨f, hf, -, rfl⟩⟩ := exec_ends i (s.latch s.wordAtPC)
        · have hrun : u.run = .running := hu.trans hr
          exact ⟨u.tick, by simp only [hx, State.endStep_running hrun],
            .completed hr hp hd hn hx hrun⟩
        · exact ⟨_, by simp only [hx]; rfl, .executeFault hr hp hd hf⟩
    · have hp' := Nat.lt_of_not_le hp
      exact ⟨_, step_fetchFault hr hp', .fetchFault hr hp'⟩
  · exact ⟨_, step_halted hr, .idle hr⟩

theorem step_ends {s t : State} (h : step s = .next t) : StepEnd s t := by
  obtain ⟨u, hu, hend⟩ := step_total s
  cases hu.symm.trans h
  exact hend

/-! ## Who writes what in a step -/

/-- The parts that the phases of a step around the execute phase may write: IR by the fetch, the timers and
the beep by the tick, RUN and the outputs by a fault or a halted step. -/
def sequencerParts (p : Part) : Prop := p = .ir ∨ p = .dt ∨ p = .st ∨ faultParts p

/-- The execute phase reads neither IR nor the outputs to know what it writes. -/
theorem execWrites_latch (s : State) (w : Word) (i : Instr) (p : Part) :
    execWrites (s.latch w) i p = execWrites s i p := by
  cases p <;> rfl

/-- A step that changes a part that only an instruction writes completed an instruction that writes it. -/
theorem step_writer {s t : State} {p : Part} (h : step s = .next t) (hk : ¬ p.Kept s t)
    (hp : ¬ sequencerParts p := by simp [sequencerParts, faultParts]) :
    ∃ i u, decodeWord s.wordAtPC = .ok i ∧ (∀ f, ¬ executeFault s i f) ∧
      exec i (s.latch s.wordAtPC) = .next u ∧ t = u.tick ∧ execWrites s i p := by
  have hfault : ∀ q, faultParts q → sequencerParts q := fun q hq => .inr (.inr (.inr hq))
  have hres : sequencerParts .result := hfault _ (.inr (.inl rfl))
  have hbeep : sequencerParts .beep := hfault _ (.inr (.inr rfl))
  have hlatch : ChangesOnly sequencerParts s (s.latch s.wordAtPC) :=
    ChangesOnly.refl.latch (.inl rfl) hres hbeep _
  cases step_ends h with
  | idle _ => exact absurd ((ChangesOnly.refl.idle hres hbeep).of_not_kept hk) hp
  | fetchFault _ _ => exact absurd ((ChangesOnly.refl.takeFault hfault _).of_not_kept hk) hp
  | unknownWord _ _ _ => exact absurd ((hlatch.takeFault hfault _).of_not_kept hk) hp
  | executeFault _ _ _ _ => exact absurd ((hlatch.takeFault hfault _).of_not_kept hk) hp
  | @completed i u _ _ hd hn hx _ =>
    refine ⟨i, u, hd, hn, hx, rfl, ?_⟩
    have hexec := (exec_changesOnly hn).of_exec hx
    have htick : ChangesOnly sequencerParts u u.tick :=
      ChangesOnly.refl.tick (.inr (.inl rfl)) (.inr (.inr (.inl rfl))) hbeep
    have hku : ¬ p.Kept (s.latch s.wordAtPC) u := fun hu =>
      hk (((hlatch p hp).trans hu).trans (htick p hp))
    exact execWrites_latch s s.wordAtPC i p ▸ hexec.of_not_kept hku

/-- Settles O20: only an instruction writes a register, and `execWrites` names those that do. -/
theorem registersHaveOnlyTheirWriters : Obligations.RegistersHaveOnlyTheirWriters := by
  intro s t r h hne
  obtain ⟨i, -, hd, -, -, -, hw⟩ := step_writer (p := .reg r) h hne
  exact ⟨i, hd, hw⟩

/-- Settles O21: only an instruction writes I, and `execWrites` names the three that do. -/
theorem indexRegisterHasThreeWriters : Obligations.IndexRegisterHasThreeWriters := by
  intro s t h hne
  obtain ⟨i, -, hd, -, -, -, hw⟩ := step_writer (p := .index) h hne
  exact ⟨i, hd, hw⟩

/-- Settles O22: `execWrites` names CALL and RET as the writers of the stack, and what each answers without a
fault says how it moves SP. -/
theorem stackHasTwoWriters : Obligations.StackHasTwoWriters := by
  intro s t h
  constructor
  · intro k hne
    obtain ⟨i, -, hd, -, -, -, hk, nnn, rfl⟩ := step_writer (p := .slot k) h hne
    exact ⟨hk, nnn, hd⟩
  · intro hne
    obtain ⟨i, u, hd, hn, hx, rfl, ⟨nnn, rfl⟩ | rfl⟩ := step_writer (p := .sp) h hne
    · cases (exec_call (s := s.latch s.wordAtPC) (sp_lt_of_noFault hn)).symm.trans hx
      exact .inl ⟨rfl, nnn, hd⟩
    · obtain ⟨k, hk⟩ := slot_in_use_of_noFault hn
      cases (exec_ret (s := s.latch s.wordAtPC) hk).symm.trans hx
      exact .inr ⟨hk.symm, hd⟩

/-- Settles O23: `execWrites` names CLS and DRW as the writers of a pixel, and no instruction as the writer of
a key latch. -/
theorem screenAndKeysHaveOnlyTheirWriters : Obligations.ScreenAndKeysHaveOnlyTheirWriters := by
  intro s t h
  constructor
  · intro r c hne
    obtain ⟨i, -, hd, -, -, -, rfl | ⟨x, y, n, rfl⟩⟩ := step_writer (p := .pixel r c) h hne
    · exact .inl hd
    · exact .inr ⟨x, y, n, hd⟩
  · intro k
    by_contra hne
    obtain ⟨i, -, -, -, -, -, hw⟩ := step_writer (p := .key k) h hne
    exact hw

/-! ## The instruction register -/

/-- Settles O7: the fetch alone writes IR, so each end of a step shows whether it was written. -/
theorem instructionRegisterHoldsTheFetchedWord : Obligations.InstructionRegisterHoldsTheFetchedWord := by
  intro s t h
  cases step_ends h with
  | idle hr => rw [if_neg (by simp [hr])]; rfl
  | fetchFault _ hp => rw [if_neg (by omega)]; rfl
  | unknownWord hr hp _ => rw [if_pos ⟨hr, hp⟩]; rfl
  | executeFault hr hp _ _ => rw [if_pos ⟨hr, hp⟩]; rfl
  | completed hr hp _ hn hx _ =>
    rw [if_pos ⟨hr, hp⟩]
    exact (exec_changesOnly hn).of_exec hx .ir id

/-- A state with another IR differs in IR alone. -/
theorem changesOnly_ir (s : State) (w : Word) : ChangesOnly (fun p => p = .ir) s { s with ir := w } := by
  intro p hp
  cases p with
  | ir => exact absurd rfl hp
  | _ => rfl

/-- Settles O14: a step that fetches overwrites IR before anything else, and the other two steps end without
an execute phase. -/
theorem nothingReadsTheInstructionRegister : Obligations.NothingReadsTheInstructionRegister := by
  intro s t w h
  rcases s.run.running_or_halted with hr | ⟨f, hr⟩
  · by_cases hp : s.pc.toNat + 2 ≤ 4096
    · have hsame : step { s with ir := w } = step s :=
        (step_fetched (s := { s with ir := w }) hr hp).trans (step_fetched hr hp).symm
      exact ⟨t, hsame.trans h, .refl⟩
    · have hp' := Nat.lt_of_not_le hp
      cases (step_fetchFault hr hp').symm.trans h
      exact ⟨_, step_fetchFault (s := { s with ir := w }) hr hp', changesOnly_ir _ w⟩
  · cases (step_halted hr).symm.trans h
    exact ⟨_, step_halted (s := { s with ir := w }) hr, changesOnly_ir _ w⟩

/-! ## The invariant of memory, PC and the slots in use -/

section Invariant

variable {s : State}

theorem State.Inv.setPC (h : s.Inv) {a : Word} (ha : a.toNat ≤ 0x10FE) : (s.setPC a).Inv := by
  obtain ⟨hmem, -, hslots⟩ := h
  exact ⟨hmem, ha, hslots⟩

/-- An instruction fetched inside memory ends at 0x1000 at most, so an advance stays within R23's bound. -/
theorem State.Inv.advance (h : s.Inv) (hp : s.pc.toNat + 2 ≤ 4096) : s.advance.Inv := by
  refine h.setPC ?_
  rw [BitVec.toNat_add]
  exact (Nat.mod_le _ _).trans (hp.trans (by decide))

theorem State.Inv.skipIf (h : s.Inv) (hp : s.pc.toNat + 2 ≤ 4096) (c : Bool) : (s.skipIf c).Inv := by
  refine h.setPC ?_
  cases c <;> simp [BitVec.toNat_add] <;> omega

theorem State.Inv.putBytes (h : s.Inv) {a : Nat} {bs : List Byte}
    (hfit : ¬ accessFaults a bs.length) : (s.putBytes a bs).Inv := by
  obtain ⟨hmem, hbounds⟩ := h
  exact ⟨Memory.writeBytes_wf hmem ((not_accessFaults_iff.1 hfit).imp_left List.length_eq_zero_iff.1),
    hbounds⟩

theorem State.Inv.loadRegs (h : s.Inv) (k : Nat) (bs : List Byte) : (s.loadRegs k bs).Inv := by
  rw [State.loadRegs_frame]; exact h

/-- A push of an address up to 0x1000 keeps the bound on the slots in use, which are then one more. -/
theorem State.Inv.pushed (h : s.Inv) {a : Word} (ha : a.toNat ≤ 0x1000) (hsp : s.sp.val < 16) :
    (s.pushed a hsp).Inv := by
  obtain ⟨hmem, hpc, hslots⟩ := h
  refine ⟨hmem, hpc, fun k hk => ?_⟩
  rw [State.slot_pushed]
  split
  · exact ha
  · next hne =>
    rw [State.pushed_sp] at hk
    exact hslots k (by omega)

/-- A pop only takes a slot out of use. -/
theorem State.Inv.popped (h : s.Inv) {k : Fin 16} (hk : s.sp.val = k.val + 1) : (s.popped k).Inv := by
  obtain ⟨hmem, hpc, hslots⟩ := h
  refine ⟨hmem, hpc, fun j hj => hslots j ?_⟩
  rw [State.popped_sp] at hj
  omega

theorem target_toNat (nnn : Addr12) : (target nnn).toNat = nnn.toNat := by
  rw [target, BitVec.toNat_setWidth]; omega

theorem target_le (nnn : Addr12) : (target nnn).toNat ≤ 0x10FE := by
  rw [target_toNat]; omega

/-- The largest PC an indexed jump reaches is 0xFFF + 0xFF (R157). -/
theorem indexedTarget_le (s : State) (nnn : Addr12) : (s.indexedTarget nnn).toNat ≤ 0x10FE := by
  rw [State.indexedTarget, BitVec.toNat_add, target_toNat, BitVec.toNat_setWidth]
  omega

/-- Where no fault condition holds and PC is fetchable, the execute phase keeps the invariant. -/
theorem exec_keeps_inv {i : Instr} (h : s.Inv) (hp : s.pc.toNat + 2 ≤ 4096)
    (hn : ∀ f, ¬ executeFault s i f) : Completes i s State.Inv := by
  cases i with
  | jp nnn => exact ⟨_, rfl, h.setPC (target_le nnn)⟩
  | jpV0 nnn => exact ⟨_, rfl, h.setPC (indexedTarget_le s nnn)⟩
  | seImm _ _ | sneImm _ _ | seReg _ _ | sneReg _ _ | skp _ | sknp _ =>
    exact ⟨_, rfl, h.skipIf hp _⟩
  | call nnn =>
    have hret : (s.pc + 2).toNat ≤ 0x1000 := by
      rw [BitVec.toNat_add]; exact (Nat.mod_le _ _).trans hp
    exact ⟨_, exec_call (sp_lt_of_noFault hn), (h.pushed hret _).setPC (target_le nnn)⟩
  | ret =>
    obtain ⟨k, hk⟩ := slot_in_use_of_noFault hn
    have ⟨_, _, hslots⟩ := h
    have hslot : (s.slot k).toNat ≤ 0x1000 := hslots k (by omega)
    exact ⟨_, exec_ret hk, (h.popped hk).setPC (hslot.trans (by decide))⟩
  | drw _ _ _ => exact ⟨_, exec_drw (access_fits_of_noFault hn), h.advance hp⟩
  | ldB x =>
    have hf := access_fits_of_noFault hn
    exact ⟨_, exec_ldB hf, (h.putBytes (bs := bcdDigits (s.reg x)) hf).advance hp⟩
  | ldMemVx x =>
    have hf := access_fits_of_noFault hn
    exact ⟨_, exec_ldMemVx hf, (h.putBytes ((s.regBlock_length x).symm ▸ hf)).advance hp⟩
  | ldVxMem x =>
    refine ⟨_, exec_ldVxMem (access_fits_of_noFault hn), (h.loadRegs 0 _).advance ?_⟩
    rw [State.loadRegs_frame]
    exact hp
  | ldVxK x =>
    cases hk : s.anyPressed with
    | none => exact ⟨_, exec_ldVxK_none hk, h⟩
    | some k => exact ⟨_, exec_ldVxK_some hk, h.advance hp⟩
  | _ => exact ⟨_, rfl, h.advance hp⟩

end Invariant

/-- Settles O15: a step that raises a fault, or finds the machine halted, keeps memory, PC and the stack; a
step that completes ran an execute phase, which keeps the invariant because PC was fetchable. -/
theorem stepKeepsTheInvariant : Obligations.StepKeepsTheInvariant := by
  intro s t h hstep
  cases step_ends hstep with
  | idle _ | fetchFault _ _ | unknownWord _ _ _ | executeFault _ _ _ _ => exact h
  | @completed i u _ hp _ hn hx _ =>
    have hlatch : (s.latch s.wordAtPC).Inv := h
    have hexec : u.Inv := (exec_keeps_inv hlatch hp hn).of_exec hx
    exact hexec

/-! ## The other two invariants -/

/-- A fault of the execute phase leaves a state that shows why it halted: the fault entry changes none of PC,
IR, I and SP, which its condition reads (R249). -/
theorem takeFault_explained {s : State} {i : Instr} {f : HaltReason} (hd : decodeWord s.ir = .ok i)
    (hf : executeFault s i f) : (s.takeFault f).FaultExplained := by
  cases f with
  | unknownOpcode => exact absurd hf not_executeFault_unknownOpcode
  | addressingError => exact .inr ⟨i, hd, executeFault_addressingError.1 hf⟩
  | stackOverflow =>
    obtain ⟨hsp, nnn, rfl⟩ := executeFault_stackOverflow.1 hf
    exact ⟨hsp, nnn, hd⟩
  | stackUnderflow =>
    obtain ⟨hsp, rfl⟩ := executeFault_stackUnderflow.1 hf
    exact ⟨hsp, hd⟩

theorem State.faultExplained_of_running {s : State} (h : s.run = .running) : s.FaultExplained := by
  rw [State.FaultExplained, h]; trivial

theorem step_keeps_faultExplained {s t : State} (h : s.FaultExplained) (hstep : step s = .next t) :
    t.FaultExplained := by
  cases step_ends hstep with
  | idle _ => exact h
  | fetchFault _ hp => exact .inl hp
  | @unknownWord e _ _ hd => exact ⟨e, hd⟩
  | executeFault _ _ hd hf => exact takeFault_explained (s := s.latch s.wordAtPC) hd hf
  | completed _ _ _ _ _ hu => exact State.faultExplained_of_running hu

/-- Without a fault the execute phase leaves `result` alone, or LD Vx, K sets it to waiting. -/
theorem exec_result {i : Instr} {s : State} (hn : ∀ f, ¬ executeFault s i f) :
    Completes i s fun t => t.result = s.result ∨ t.result = .waiting := by
  by_cases hk : ∃ x, i = .ldVxK x
  · obtain ⟨x, rfl⟩ := hk
    cases hk : s.anyPressed with
    | none => exact ⟨_, exec_ldVxK_none hk, .inr rfl⟩
    | some k => exact ⟨_, exec_ldVxK_some hk, .inl rfl⟩
  · obtain ⟨t, ht, hw⟩ := exec_changesOnly hn
    exact ⟨t, ht, .inl (hw .result hk)⟩

theorem step_outputsAgree {s t : State} (hstep : step s = .next t) : t.OutputsAgree := by
  cases step_ends hstep with
  | @idle f hr => rw [State.OutputsAgree, State.idle_run, hr]; exact ⟨.inr rfl, rfl⟩
  | fetchFault _ _ | unknownWord _ _ _ | executeFault _ _ _ _ => exact ⟨.inl rfl, rfl⟩
  | @completed i u _ _ _ hn hx hu =>
    have hres : u.result = .ok ∨ u.result = .waiting := (exec_result hn).of_exec hx
    rw [State.OutputsAgree, State.tick_run, hu]
    exact hres

theorem reset_inv : State.reset.Inv := ⟨reset_mem_wf, by decide, fun k h => absurd h k.val.not_lt_zero⟩

/-- Settles O16: memory is unwritten, no slot is in use, and the machine runs. -/
theorem resetMeetsTheInvariants : Obligations.ResetMeetsTheInvariants :=
  ⟨reset_inv, State.faultExplained_of_running rfl, .inl rfl⟩

/-- A program that LoadProgram accepts fits in memory from 0x200 up (R74). -/
theorem loadProgram_eq_some {s t : State} {bytes : List Byte} (h : s.loadProgram bytes = some t) :
    ¬ accessFaults Config.progBase bytes.length ∧ t = s.putBytes Config.progBase bytes := by
  unfold State.loadProgram at h
  split at h
  · next hlen =>
    cases h
    exact ⟨not_accessFaults_iff.2 (.inr (Nat.add_le_add_left hlen Config.progBase)), rfl⟩
  · cases h

/-- Settles O17: Reset and Step by their own lemmas; LoadProgram writes inside memory, and the others change
nothing that an invariant reads. -/
theorem hostOperationsKeepTheInvariants : Obligations.HostOperationsKeepTheInvariants := by
  intro op s t reply h
  cases op with
  | reset =>
    obtain ⟨hinv, hfault, hout⟩ := resetMeetsTheInvariants
    cases h
    exact ⟨fun _ => hinv, fun _ => hfault, fun _ => hout⟩
  | loadProgram bytes =>
    cases hl : s.loadProgram bytes with
    | none =>
      simp only [hostOp, hl] at h
      cases h
      exact ⟨id, id, id⟩
    | some u =>
      obtain ⟨hfit, rfl⟩ := loadProgram_eq_some hl
      simp only [hostOp, hl] at h
      cases h
      exact ⟨fun hi => hi.putBytes hfit, id, id⟩
  | setKey k b => cases h; exact ⟨id, id, id⟩
  | step =>
    obtain ⟨u, hu, -⟩ := step_total s
    simp only [hostOp, hu] at h
    cases h
    exact ⟨fun hi => stepKeepsTheInvariant s _ hi hu, fun hf => step_keeps_faultExplained hf hu,
      fun _ => step_outputsAgree hu⟩
  | readPixels | observe => cases h; exact ⟨id, id, id⟩

/-! ## The flag -/

theorem flagByte_toNat (c : Bool) : (flagByte c).toNat = if c then 1 else 0 := by
  cases c <;> rfl

theorem carryFlag_toNat (a b : Byte) :
    (carryFlag a b).toNat = if a.toNat + b.toNat > 255 then 1 else 0 := by
  simp [carryFlag, flagByte_toNat]

theorem notBorrowFlag_toNat (a b : Byte) :
    (notBorrowFlag a b).toNat = if a.toNat ≥ b.toNat then 1 else 0 := by
  simp [notBorrowFlag, flagByte_toNat]

theorem shiftRightFlag_toNat (a : Byte) : (shiftRightFlag a).toNat = a.toNat % 2 := by
  rw [shiftRightFlag, flagByte_toNat, BitVec.getLsbD, Nat.testBit_zero]
  simp only [decide_eq_true_eq]
  split <;> omega

theorem shiftLeftFlag_toNat (a : Byte) : (shiftLeftFlag a).toNat = a.toNat / 128 := by
  have := a.isLt
  rw [shiftLeftFlag, flagByte_toNat, BitVec.getLsbD, Nat.testBit_eq_decide_div_mod_eq]
  simp only [decide_eq_true_eq]
  split <;> omega

/-- The flag write comes last, so VF holds the flag whatever the destination of the result is (R161). -/
theorem State.vf_setResultFlag_toNat {s : State} {x : RegIdx} {result flag : Byte} {n : Nat}
    (h : flag.toNat = n) : (s.setResultFlag x result flag).vf.toNat = n := by
  rw [State.vf, State.reg_setResultFlag, if_pos rfl, h]

/-- Each of the five flag-writing forms leaves the table's value in VF, its destination being VF or not. -/
theorem exec_flag {i : Instr} {s : State} {n : Nat} (h : arithmeticFlag s i = some n) :
    Completes i s fun t => t.vf.toNat = n := by
  cases i with
  | addReg x y => cases h; exact ⟨_, rfl, State.vf_setResultFlag_toNat (carryFlag_toNat ..)⟩
  | subReg x y | subn x y => cases h; exact ⟨_, rfl, State.vf_setResultFlag_toNat (notBorrowFlag_toNat ..)⟩
  | shr x y => cases h; exact ⟨_, rfl, State.vf_setResultFlag_toNat (shiftRightFlag_toNat ..)⟩
  | shl x y => cases h; exact ⟨_, rfl, State.vf_setResultFlag_toNat (shiftLeftFlag_toNat ..)⟩
  | _ => cases h

/-- Settles O25: the five flag writers by the table's value, and every other instruction by its frame, a
fault writing no register at all. -/
theorem flagRegisterAfterEveryInstruction : Obligations.FlagRegisterAfterEveryInstruction := by
  intro i s t hx hdrw
  cases ha : arithmeticFlag s i with
  | some n => exact (exec_flag ha).of_exec hx
  | none =>
    intro hdest
    obtain ⟨u, hu, ⟨-, hn⟩ | ⟨f, -, -, rfl⟩⟩ := exec_ends i s
    · refine (exec_changesOnly hn).of_exec hx (.reg 0xF) ?_
      rintro (hd | ⟨-, hflag | ⟨x, y, n, rfl⟩⟩)
      · exact hdest hd
      · simp [ha] at hflag
      · exact hdrw x y n rfl
    · cases hu.symm.trans hx
      rfl

/-! ## Reset -/

/-- Above the glyph table memory starts as zero (R73). -/
theorem initialByte_of_ge {a : Nat} (h : a ≥ 0x050) : initialByte a = 0 :=
  List.getD_eq_default _ _ h

/-- Settles O60: Reset keeps nothing of the old state but the model's draw counter. -/
theorem resetGivesTheStateOfTheTable : Obligations.ResetGivesTheStateOfTheTable := by
  intro s
  have hframe : ChangesOnly (fun p => p = .draws) State.reset s.hostReset := fun p hp => by
    cases p with
    | draws => exact absurd rfl hp
    | _ => rfl
  refine ⟨s.hostReset, rfl, hframe, rfl, rfl, rfl, rfl, rfl, rfl, rfl, rfl, fun r => ?_, fun k => ?_,
    Frame.pixel_blank, fun k => ?_, fun a ha => initialByte_of_ge ha, rfl⟩
  · exact Vector.getElem_replicate _
  · exact Vector.getElem_replicate _
  · exact Vector.getElem_replicate _

end Sys2Proof.Machine

/-!
SUPPORT. Blocks of bytes in memory: what the primitives of `20_memory.md` answer for a range inside memory and
for one that passes its end. Then its statements: the primitives themselves, LoadProgram, the writers of memory,
and a stored instruction that the next step fetches.
-/

namespace Sys2Proof.Machine

/-! ## Blocks of bytes, by place in the block -/

theorem Memory.readBytes_getElem (m : Memory) (a n : Nat) {k : Nat} (h : k < (m.readBytes a n).length) :
    (m.readBytes a n)[k] = m.read (a + k) := by
  rw [← m.readBytes_getD a n k (by simpa using h), List.getD_eq_getElem _ _ h]

theorem Memory.read_writeBytes_getElem (m : Memory) (a : Nat) (bs : List Byte) {k : Nat}
    (h : k < bs.length) : (m.writeBytes a bs).read (a + k) = bs[k] := by
  rw [Memory.read_writeBytes, if_pos (by omega), Nat.add_sub_cancel_left, List.getD_eq_getElem _ _ h]

/-- A block write changes the bytes of its range and nothing else. -/
theorem State.putBytes_changesOnly (s : State) (a : Nat) (bs : List Byte) :
    ChangesOnly (fun p => ∃ c, p = .byte c ∧ a ≤ c ∧ c < a + bs.length) s (s.putBytes a bs) :=
  ChangesOnly.refl.putBytes fun c hlo hhi => ⟨c, rfl, hlo, hhi⟩

/-- Storing V[0] to V[x] at I puts V[k] at I + k (R199). -/
theorem State.read_putBytes_regBlock (s : State) {x k : RegIdx} (h : k.toNat ≤ x.toNat) :
    (s.putBytes s.base (s.regBlock x)).mem.read (s.base + k.toNat) = s.reg k := by
  have hlen : k.toNat < (s.regBlock x).length := by
    rw [State.regBlock_length]; exact Nat.lt_succ_of_le h
  rw [State.putBytes_mem, Memory.read_writeBytes_getElem _ _ _ hlen, ← List.getD_eq_getElem _ 0 hlen,
    State.regBlock_getD s x _ h, BitVec.ofNat_toNat, BitVec.setWidth_eq]

/-! ## The primitives and LoadProgram -/

/-- Settles O48: the bounds check comes before any byte is written, and a block write has no other effect. -/
theorem writesAreWholeOrFault : Obligations.WritesAreWholeOrFault := by
  intro s a bs hn
  rw [State.memWrite_eq]
  split
  · next hfit =>
    exact ⟨_, if_pos (.inr hfit), fun k hk => Memory.read_writeBytes_getElem _ _ _ hk,
      s.putBytes_changesOnly a bs⟩
  · exact if_neg (by omega)

/-- Settles O49: the bounds check is on the whole range, as natural numbers. -/
theorem readsAreWholeOrFault : Obligations.ReadsAreWholeOrFault := by
  intro s a n hn
  rw [State.memRead_eq]
  split
  · next hfit =>
    exact ⟨_, if_pos (.inr hfit), s.mem.readBytes_length a n, fun k hk => s.mem.readBytes_getElem a n hk⟩
  · exact if_neg (by omega)

theorem State.loadProgram_of_le {s : State} {bytes : List Byte} (h : bytes.length ≤ 3584) :
    s.loadProgram bytes = some (s.putBytes 0x200 bytes) := if_pos h

theorem State.loadProgram_of_gt {s : State} {bytes : List Byte} (h : bytes.length > 3584) :
    s.loadProgram bytes = none := if_neg (Nat.not_le_of_gt h)

/-- Settles O57: a program that fits is one block write at 0x200, and a longer one is not written at all. -/
theorem loadProgramIsABlockWrite : Obligations.LoadProgramIsABlockWrite := by
  intro s bytes
  constructor
  · intro h
    refine ⟨s.putBytes 0x200 bytes, ?_, fun k hk => Memory.read_writeBytes_getElem _ _ _ hk,
      s.putBytes_changesOnly 0x200 bytes⟩
    rw [hostOp, State.loadProgram_of_le h]
  · intro h
    rw [hostOp, State.loadProgram_of_gt h]

/-! ## Instructions that store -/

/-- Settles O24: only an instruction writes a byte, and `execWrites` names the range that it stores to. -/
theorem memoryHasTwoWriters : Obligations.MemoryHasTwoWriters := by
  intro s t a h hne
  obtain ⟨i, -, hd, -, -, -, hw⟩ := step_writer (p := .byte a) h hne
  exact ⟨i, hd, hw⟩

/-- Settles O47: the two bytes at the new PC are those of V[k] and V[k + 1], and the store's own bound puts
them inside memory. -/
theorem storedBytesAreFetchedNext : Obligations.StoredBytesAreFetchedNext := by
  intro x k s t hx hfit hk hpc
  have hstore : ¬ accessFaults s.base (x.toNat + 1) := not_accessFaults_iff.2 (.inr hfit)
  have hx16 : x.toNat < 16 := x.isLt
  have hnext : (k + 1).toNat = k.toNat + 1 :=
    BitVec.toNat_add_of_lt (show k.toNat + 1 < 16 by omega)
  have hhi := s.read_putBytes_regBlock (x := x) (k := k) (by omega)
  have hlo := s.read_putBytes_regBlock (x := x) (k := k + 1) (by omega)
  rw [hnext, ← Nat.add_assoc] at hlo
  cases (exec_ldMemVx hstore).symm.trans hx
  rw [State.fetch_eq, hpc, if_pos (by omega), State.advance_mem, hhi, hlo, wordOfBytes]

end Sys2Proof.Machine

/-!
SUPPORT. The decoder by groups: which words each group takes, what it answers, and which it rejects. Then
the statements of `30_encoding.md`.
-/

namespace Sys2Proof

/-! ## The four groups that look past the top nibble (R94) -/

section Groups

variable {w : Word}

theorem decodeWord_of_op0 (h : opOf w = 0x0) : decodeWord w = decodeGroup0 w := by rw [decodeWord, h]; rfl

theorem decodeWord_of_op8 (h : opOf w = 0x8) : decodeWord w = decodeGroup8 w := by rw [decodeWord, h]; rfl

theorem decodeWord_of_opE (h : opOf w = 0xE) : decodeWord w = decodeGroupE w := by rw [decodeWord, h]; rfl

theorem decodeWord_of_opF (h : opOf w = 0xF) : decodeWord w = decodeGroupF w := by rw [decodeWord, h]; rfl

end Groups

/-! ## From an instruction to its word and back -/

theorem formatNNN_inj {op : BitVec 4} {a b : Addr12} : formatNNN op a = formatNNN op b ↔ a = b := by
  refine ⟨fun h => ?_, congrArg _⟩
  rw [← nnnOf_formatNNN op a, h, nnnOf_formatNNN]

/-- A SYS term is well formed exactly where its word is neither that of CLS nor that of RET (R98). -/
theorem sys_wellFormed_iff {nnn : Addr12} :
    (Instr.sys nnn).WellFormed ↔ formatNNN 0x0 nnn ≠ 0x00E0 ∧ formatNNN 0x0 nnn ≠ 0x00EE := by
  change _ ↔ formatNNN 0x0 nnn ≠ formatNNN 0x0 0x0E0 ∧ formatNNN 0x0 nnn ≠ formatNNN 0x0 0x0EE
  simp [Instr.WellFormed, Instr.wellFormed, formatNNN_inj]

theorem decodeGroup0_sys {nnn : Addr12} (h : (Instr.sys nnn).WellFormed) :
    decodeGroup0 (formatNNN 0x0 nnn) = .ok (.sys nnn) := by
  obtain ⟨hcls, hret⟩ := sys_wellFormed_iff.1 h
  rw [decodeGroup0, if_neg hcls, if_neg hret, nnnOf_formatNNN]

/-- Every operand at every value: the word of a well-formed instruction decodes to it. -/
theorem decodeWord_encodeWord {i : Instr} (h : i.WellFormed) : decodeWord (encodeWord i) = .ok i := by
  cases i with
  | cls | ret => rfl
  | sys nnn => exact (decodeWord_of_op0 (opOf_formatNNN _ _)).trans (decodeGroup0_sys h)
  | ldReg x y | orReg x y | andReg x y | xorReg x y | addReg x y | subReg x y | shr x y | subn x y
  | shl x y =>
    exact (decodeWord_of_op8 (opOf_formatXYN _ _ _ _)).trans (by simp [decodeGroup8])
  | skp x | sknp x =>
    exact (decodeWord_of_opE (opOf_formatXKK _ _ _)).trans (by simp [decodeGroupE])
  | ldVxDT x | ldVxK x | ldDTVx x | ldSTVx x | addI x | ldF x | ldB x | ldMemVx x | ldVxMem x =>
    exact (decodeWord_of_opF (opOf_formatXKK _ _ _)).trans (by simp [decodeGroupF])
  | jp nnn | call nnn | ldI nnn | jpV0 nnn | seImm x kk | sneImm x kk | ldImm x kk | addImm x kk
  | rnd x kk | seReg x y | sneReg x y | drw x y n =>
    simp [decodeWord, encodeWord]

/-- Settles O2: the two bytes give the word back, and the word gives the instruction back. -/
theorem decodeOfEncodeIsTheInstruction : Obligations.DecodeOfEncodeIsTheInstruction := by
  intro i rest h
  rw [encode, decode_bytesOfWord, decodeWord_encodeWord h]
  rfl

/-! ## From a word to its instruction and back -/

/-- `i` stands for the word `w`: it is well formed and `w` is its encoding. -/
def StandsFor (i : Instr) (w : Word) : Prop := i.WellFormed ∧ encodeWord i = w

section Words

variable {w : Word} {i : Instr}

theorem formatNNN_of_op {op : BitVec 4} (h : opOf w = op) : formatNNN op (nnnOf w) = w :=
  h ▸ formatNNN_fields w

theorem formatXKK_of_op {op : BitVec 4} {kk : Byte} (h : opOf w = op) (hk : kkOf w = kk) :
    formatXKK op (xOf w) kk = w := by
  rw [← h, ← hk, formatXKK_fields]

theorem formatXYN_of_op {op n : BitVec 4} (h : opOf w = op) (hn : nOf w = n) :
    formatXYN op (xOf w) (yOf w) n = w := by
  rw [← h, ← hn, formatXYN_fields]

theorem decodeGroup0_standsFor (hop : opOf w = 0x0) (h : decodeGroup0 w = .ok i) : StandsFor i w := by
  rw [decodeGroup0] at h
  split_ifs at h with hcls hret <;> cases h
  · exact ⟨rfl, hcls.symm⟩
  · exact ⟨rfl, hret.symm⟩
  · have hword : formatNNN 0x0 (nnnOf w) = w := formatNNN_of_op hop
    exact ⟨sys_wellFormed_iff.2 (by rw [hword]; exact ⟨hcls, hret⟩), hword⟩

theorem decodeGroup8_standsFor (hop : opOf w = 0x8) (h : decodeGroup8 w = .ok i) : StandsFor i w := by
  rw [decodeGroup8] at h
  split at h <;> cases h
  all_goals next hn => exact ⟨rfl, formatXYN_of_op hop (BitVec.eq_of_toNat_eq hn)⟩

theorem decodeGroupE_standsFor (hop : opOf w = 0xE) (h : decodeGroupE w = .ok i) : StandsFor i w := by
  rw [decodeGroupE] at h
  split_ifs at h <;> cases h
  all_goals exact ⟨rfl, formatXKK_of_op hop ‹_›⟩

theorem decodeGroupF_standsFor (hop : opOf w = 0xF) (h : decodeGroupF w = .ok i) : StandsFor i w := by
  rw [decodeGroupF] at h
  split_ifs at h <;> cases h
  all_goals exact ⟨rfl, formatXKK_of_op hop ‹_›⟩

/-- By the top nibble: a format's fields put the word together again, and a group answers for
its own words. -/
theorem decodeWord_standsFor (h : decodeWord w = .ok i) : StandsFor i w := by
  rw [decodeWord] at h
  split at h
  case h_1 hop => exact decodeGroup0_standsFor (BitVec.eq_of_toNat_eq hop) h
  case h_2 hop | h_3 hop | h_11 hop | h_12 hop =>
    cases h; exact ⟨rfl, formatNNN_of_op (BitVec.eq_of_toNat_eq hop)⟩
  case h_4 hop | h_5 hop | h_7 hop | h_8 hop | h_13 hop =>
    cases h; exact ⟨rfl, formatXKK_of_op (BitVec.eq_of_toNat_eq hop) rfl⟩
  case h_6 hop | h_10 hop =>
    split_ifs at h with hn
    cases h; exact ⟨rfl, formatXYN_of_op (BitVec.eq_of_toNat_eq hop) hn⟩
  case h_14 hop => cases h; exact ⟨rfl, formatXYN_of_op (BitVec.eq_of_toNat_eq hop) rfl⟩
  case h_9 hop => exact decodeGroup8_standsFor (BitVec.eq_of_toNat_eq hop) h
  case h_15 hop => exact decodeGroupE_standsFor (BitVec.eq_of_toNat_eq hop) h
  case h_16 =>
    have hop : (opOf w).toNat = 15 := by simp only [imp_false] at *; omega
    exact decodeGroupF_standsFor (BitVec.eq_of_toNat_eq hop) h

/-- Settles O3: a decoded instruction stands for its word. -/
theorem encodeOfDecodeIsTheWord : Obligations.EncodeOfDecodeIsTheWord :=
  fun _ _ h => decodeWord_standsFor h

/-! ## The words that the decoder rejects (R97) -/

/-- A row of a group is tested before the rows after it: a word is rejected where it is not that row's word
and all of those reject it. -/
theorem ite_ok_rejects_iff {c : Prop} [Decidable c] {m : Except DecodeError Instr} :
    (∃ e, (if c then .ok i else m) = .error e) ↔ ¬ c ∧ ∃ e, m = .error e := by
  split <;> simp [*]

theorem decodeGroup0_accepts : ¬ ∃ e, decodeGroup0 w = .error e := by
  simp [decodeGroup0, ite_ok_rejects_iff]

theorem decodeGroup8_rejects_iff :
    (∃ e, decodeGroup8 w = .error e) ↔ (nOf w).toNat ≥ 8 ∧ (nOf w).toNat ≠ 0xE := by
  rw [decodeGroup8]
  split
  case h_10 =>
    have hn : (nOf w).toNat ≥ 8 ∧ (nOf w).toNat ≠ 0xE := by simp only [imp_false] at *; omega
    exact iff_of_true ⟨_, rfl⟩ hn
  all_goals next hn => simp [hn]

theorem decodeGroupE_rejects_iff :
    (∃ e, decodeGroupE w = .error e) ↔ (kkOf w).toNat ∉ [0x9E, 0xA1] := by
  simp [decodeGroupE, ite_ok_rejects_iff, BitVec.toNat_eq]

theorem decodeGroupF_rejects_iff :
    (∃ e, decodeGroupF w = .error e) ↔
      (kkOf w).toNat ∉ [0x07, 0x0A, 0x15, 0x18, 0x1E, 0x29, 0x33, 0x55, 0x65] := by
  simp [decodeGroupF, ite_ok_rejects_iff, BitVec.toNat_eq]

end Words

/-- Settles O4: the table speaks of the top nibble and of the low nibble or byte, so that each group answers
for its own row. -/
theorem illegalWordsAreExactlyTheTable : Obligations.IllegalWordsAreExactlyTheTable := by
  intro w
  simp only [← opOf_toNat, ← nOf_toNat, ← kkOf_toNat]
  rw [decodeWord]
  split
  case h_1 hop => simp [hop, decodeGroup0_accepts]
  case h_6 hop | h_10 hop => simp [hop, ite_ok_rejects_iff, BitVec.toNat_eq]
  case h_9 hop => simp [hop, decodeGroup8_rejects_iff]
  case h_15 hop => simp [hop, decodeGroupE_rejects_iff]
  case h_16 =>
    have hop : (opOf w).toNat = 15 := by simp only [imp_false] at *; omega
    simp [hop, decodeGroupF_rejects_iff]
  all_goals next hop => simp [hop]

/-! ## The spec's example words -/

/-- Settles O1: the decoder evaluates on each word. -/
theorem decodesWordsOfTheSpec : Obligations.DecodesWordsOfTheSpec :=
  ⟨rfl, rfl, rfl, rfl, rfl, rfl, rfl, rfl, rfl, rfl⟩

end Sys2Proof

/-!
SUPPORT. The sequencer: the converse of `step_ends`, a run of a halted machine, the step that ticks, and a step
with another draw counter. Then the statements of `40_step_sequencer.md`.
-/

namespace Sys2Proof.Machine

/-! ## A state as one of the five ends describes it is the answer of the step -/

/-- A fault whose condition holds is the one that the execute phase takes. -/
theorem exec_of_executeFault {i : Instr} {s : State} {f : HaltReason} (hf : executeFault s i f) :
    exec i s = .next (s.takeFault f) := by
  obtain ⟨t, hx, ⟨-, hn⟩ | ⟨g, -, honly, rfl⟩⟩ := exec_ends i s
  · exact absurd hf (hn f)
  · rw [hx, honly f hf]

/-- The converse of `step_ends`. -/
theorem StepEnd.step_eq {s t : State} (h : StepEnd s t) : step s = .next t := by
  cases h with
  | idle hr => exact step_halted hr
  | fetchFault hr hp => exact step_fetchFault hr hp
  | unknownWord hr hp hd => rw [step_fetched hr hp, hd]
  | executeFault hr hp hd hf => simp only [step_fetched hr hp, hd, exec_of_executeFault hf]; rfl
  | completed hr hp hd _ hx hu => simp only [step_fetched hr hp, hd, hx, State.endStep_running hu]

/-! ## A halted machine -/

theorem coreRun_succ_of_step {M : Host.Core} {s u : M.State} (h : M.step s = .next u) (k : Nat) :
    M.run (k + 1) s = M.run k u := by
  rw [Host.Core.run, h]

/-- The first step of a halted machine sets the outputs, and the later ones set them to the same again. -/
theorem run_halted_succ {s : State} {f : HaltReason} (hr : s.run = .halted f) (k : Nat) :
    core.run (k + 1) s = .next s.idle := by
  refine (coreRun_succ_of_step (step_halted hr) k).trans ?_
  induction k generalizing s with
  | zero => rfl
  | succ k ih =>
    have hr' : s.idle.run = .halted f := hr
    exact (coreRun_succ_of_step (step_halted hr') k).trans (ih hr')

/-- Settles O9: no step leaves the state as it is, and any more leave it idle. -/
theorem haltedMachineStaysHalted : Obligations.HaltedMachineStaysHalted := by
  intro k s f hr
  cases k with
  | zero => exact ⟨s, rfl, .refl, fun h => absurd h (Nat.not_succ_le_zero 0)⟩
  | succ k =>
    exact ⟨s.idle, run_halted_succ hr k, ChangesOnly.refl.idle (.inl rfl) (.inr rfl),
      fun _ => ⟨rfl, rfl⟩⟩

/-! ## The tick -/

/-- The tick beeps exactly where it finds ST at 1 (R127). -/
theorem State.tick_beep_iff (s : State) : s.tick.beep = true ↔ s.st.toNat = 1 := by
  rw [State.tick_beep, decide_eq_true_iff, BitVec.toNat_eq]; rfl

/-- A step that leaves the machine running completed the execute phase of the word at PC, and ticked. -/
theorem step_completed {s t : State} {i : Instr} (h : step s = .next t) (hr : s.run = .running)
    (ht : t.run = .running) (hd : decodeWord s.wordAtPC = .ok i) :
    ∃ u, exec i (s.latch s.wordAtPC) = .next u ∧ ChangesOnly (execWrites s i) (s.latch s.wordAtPC) u ∧
      t = u.tick := by
  cases step_ends h with
  | idle hr' => cases hr.symm.trans hr'
  | fetchFault _ _ | unknownWord _ _ _ | executeFault _ _ _ _ => cases ht
  | @completed j u _ _ hd' hn hx _ =>
    cases hd'.symm.trans hd
    have hframe : ChangesOnly (execWrites s i) (s.latch s.wordAtPC) u := fun p hp =>
      (exec_changesOnly hn).of_exec hx p (execWrites_latch s s.wordAtPC i p ▸ hp)
    exact ⟨u, hx, hframe, rfl⟩

/-- Settles O12: LD DT and LD ST answer the new value of their timer, every other instruction leaves it, and
the tick counts what it finds down. -/
theorem timersTickOncePerStep : Obligations.TimersTickOncePerStep := by
  intro s t i hr h ht hd
  obtain ⟨u, hx, hframe, rfl⟩ := step_completed h hr ht hd
  have hcount : u.tick.st.toNat = u.st.toNat - 1 := countDown_toNat u.st
  have hbeep := u.tick_beep_iff
  refine ⟨?_, fun hne => ?_, ?_, fun hne => ?_⟩
  · rintro x rfl
    cases hx
    exact countDown_toNat (s.reg x)
  · have hdt : u.dt = s.dt := hframe .dt fun ⟨x, hi⟩ => hne x hi
    rw [State.tick_dt, countDown_toNat, hdt]
  · rintro x rfl
    cases hx
    exact ⟨hcount, hbeep⟩
  · have hst : u.st = s.st := hframe .st fun ⟨x, hi⟩ => hne x hi
    rw [← hst]
    exact ⟨hcount, hbeep⟩

/-! ## The draw counter -/

/-- The state with another draw counter. -/
def State.withDraws (s : State) (n : Nat) : State := { s with draws := n }

theorem State.loadRegs_withDraws (s : State) (n k : Nat) (bs : List Byte) :
    (s.withDraws n).loadRegs k bs = (s.loadRegs k bs).withDraws n := by
  induction bs generalizing s k with
  | nil => rfl
  | cons b bs ih => exact ih (s.setReg _ b) (k + 1)

/-- Where no fault condition holds, every instruction but RND completes alike with another draw counter. -/
theorem exec_withDraws {i : Instr} {s : State} (n : Nat) (hi : ∀ x kk, i ≠ .rnd x kk)
    (hn : ∀ f, ¬ executeFault s i f) :
    Completes i s fun t => exec i (s.withDraws n) = .next (t.withDraws n) := by
  cases i with
  | rnd x kk => exact absurd rfl (hi x kk)
  | ret =>
    obtain ⟨k, hk⟩ := slot_in_use_of_noFault hn
    exact ⟨_, exec_ret hk, exec_ret (s := s.withDraws n) hk⟩
  | call nnn =>
    have hsp := sp_lt_of_noFault hn
    exact ⟨_, exec_call hsp, exec_call (s := s.withDraws n) hsp⟩
  | drw x y m =>
    have hf := access_fits_of_noFault hn
    exact ⟨_, exec_drw hf, exec_drw (s := s.withDraws n) hf⟩
  | ldB x =>
    have hf := access_fits_of_noFault hn
    exact ⟨_, exec_ldB hf, exec_ldB (s := s.withDraws n) hf⟩
  | ldMemVx x =>
    have hf := access_fits_of_noFault hn
    exact ⟨_, exec_ldMemVx hf, exec_ldMemVx (s := s.withDraws n) hf⟩
  | ldVxMem x =>
    have hf := access_fits_of_noFault hn
    refine ⟨_, exec_ldVxMem hf, (exec_ldVxMem (s := s.withDraws n) hf).trans ?_⟩
    rw [State.loadRegs_withDraws]
    rfl
  | ldVxK x =>
    cases hk : s.anyPressed with
    | none => exact ⟨_, exec_ldVxK_none hk, exec_ldVxK_none (s := s.withDraws n) hk⟩
    | some k => exact ⟨_, exec_ldVxK_some hk, exec_ldVxK_some (s := s.withDraws n) hk⟩
  | _ => exact ⟨_, rfl, rfl⟩

/-- Settles O13: a step ends in the same way with another counter, since no condition of an end reads it and
no execute phase but that of RND does. -/
theorem drawsMatterOnlyToRnd : Obligations.DrawsMatterOnlyToRnd := by
  intro s t n hrnd h
  cases step_ends h with
  | idle hr => exact ⟨rfl, (StepEnd.idle (s := s.withDraws n) hr).step_eq⟩
  | fetchFault hr hp => exact ⟨rfl, (StepEnd.fetchFault (s := s.withDraws n) hr hp).step_eq⟩
  | unknownWord hr hp hd => exact ⟨rfl, (StepEnd.unknownWord (s := s.withDraws n) hr hp hd).step_eq⟩
  | executeFault hr hp hd hf =>
    exact ⟨rfl, (StepEnd.executeFault (s := s.withDraws n) hr hp hd hf).step_eq⟩
  | @completed i u hr hp hd hn hx hu =>
    have hi : ∀ x kk, i ≠ .rnd x kk := fun x kk e => hrnd x kk (e ▸ hd)
    have hdraws : u.draws = s.draws :=
      (exec_changesOnly hn).of_exec hx .draws fun ⟨x, kk, e⟩ => hi x kk e
    have hx' := (exec_withDraws n hi hn).of_exec hx
    exact ⟨hdraws, (StepEnd.completed (s := s.withDraws n) hr hp hd hn hx' hu).step_eq⟩

/-! ## The outputs -/

/-- Settles O19: each of the five ends of a step sets the outputs to what RUN says (`step_outputsAgree`). -/
theorem stepOutputsAgreeWithRun : Obligations.StepOutputsAgreeWithRun :=
  fun _ _ => step_outputsAgree

/-! ## Fetch, decode and execute -/

theorem State.endStep_eq (s : State) : s.endStep = if s.run = .running then s.tick else s := by
  rcases s.run.running_or_halted with hr | ⟨f, hr⟩
  · rw [State.endStep_running hr, if_pos hr]
  · rw [State.endStep_halted hr, if_neg (by simp [hr])]

/-- The decoder reads the two bytes at PC as the word at PC, with nothing left over. -/
theorem decode_readBytes_pc (s : State) :
    decode (s.mem.readBytes s.pc.toNat 2) = (decodeWord s.wordAtPC).map (fun i => (i, [])) := by
  rw [State.wordAtPC]
  simp only [Memory.readBytes, decode, wordOfBytes]
  cases decodeWord (s.mem.read s.pc.toNat ++ s.mem.read (s.pc.toNat + 1)) <;> rfl

theorem decodeWord_wordAtPC {s : State} {i : Instr} {rest : List Byte}
    (h : decode (s.mem.readBytes s.pc.toNat 2) = .ok (i, rest)) : decodeWord s.wordAtPC = .ok i := by
  rw [decode_readBytes_pc] at h
  cases hd : decodeWord s.wordAtPC with
  | ok j => rw [hd] at h; cases h; rfl
  | error e => rw [hd] at h; cases h

/-- Settles O5: the state after the fetch is the one latched, and the end of the step is the tick of a running
machine. -/
theorem stepRunsTheDecodedInstruction : Obligations.StepRunsTheDecodedInstruction := by
  intro s i hr hp _ hdec
  have hd := decodeWord_wordAtPC hdec
  obtain ⟨u, hx, -⟩ := exec_ends i (s.latch s.wordAtPC)
  have hx' : exec i { s with ir := s.wordAtPC, result := .ok, beep := false } = .next u := hx
  simp only [step_fetched hr hp, hd, hx, hx', State.endStep_eq]

/-- The fault entry writes RUN and the outputs and nothing else (R250). -/
theorem faultTaken_takeFault (f : HaltReason) (s : State) : FaultTaken f s (s.takeFault f) :=
  ⟨rfl, rfl, rfl, ChangesOnly.refl.takeFault (fun _ => id) f⟩

/-- Settles O6: the fetch checks its range before it reads, and its fault comes before anything is latched. -/
theorem fetchReadsTwoBytesOrFaults : Obligations.FetchReadsTwoBytesOrFaults := by
  intro s
  rw [State.fetch_eq]
  refine ⟨fun hp => if_pos hp, fun hp => ⟨if_neg (Nat.not_le_of_gt hp), fun hr => ?_⟩⟩
  exact ⟨_, step_fetchFault hr hp, faultTaken_takeFault _ s⟩

/-- Settles O8: the latch writes IR and the outputs, and the fault entry RUN and the outputs. -/
theorem unknownWordHalts : Obligations.UnknownWordHalts := by
  intro s e hr hp hd
  have hlatch : ChangesOnly (fun p => p = .ir ∨ faultParts p) s (s.latch s.wordAtPC) :=
    ChangesOnly.refl.latch (.inl rfl) (.inr (.inr (.inl rfl))) (.inr (.inr (.inr rfl))) _
  exact ⟨_, (StepEnd.unknownWord hr hp hd).step_eq, rfl, rfl, rfl, rfl, rfl,
    hlatch.takeFault (fun _ => .inr) _⟩

end Sys2Proof.Machine

/-!
SUPPORT. The words of the three operand formats as the numbers the statements write, and the PC that a jump or
a skip leaves. Then the statements of `41_control_flow.md`.
-/

namespace Sys2Proof.Machine

/-! ## The word of a number decodes to the instruction it encodes -/

section Numbers

variable {i : Instr}

theorem decodesAs_of_encodeWord {n : Nat} (h : i.WellFormed) (hn : (encodeWord i).toNat = n) :
    DecodesAs n i := by
  rw [DecodesAs, ← hn, BitVec.ofNat_toNat, BitVec.setWidth_eq, decodeWord_encodeWord h]

theorem decodesAs_formatNNN (op : BitVec 4) {nnn : Addr12} (h : i.WellFormed)
    (hw : encodeWord i = formatNNN op nnn) : DecodesAs (op.toNat * 4096 + nnn.toNat) i :=
  decodesAs_of_encodeWord h (by rw [hw, formatNNN_toNat])

theorem decodesAs_formatXKK (op : BitVec 4) {x : RegIdx} {kk : Byte} (h : i.WellFormed)
    (hw : encodeWord i = formatXKK op x kk) :
    DecodesAs (op.toNat * 4096 + x.toNat * 256 + kk.toNat) i :=
  decodesAs_of_encodeWord h (by rw [hw, formatXKK_toNat, Nat.add_assoc])

/-- The low nibble stands beside the top one, as in the statements' constants. -/
theorem decodesAs_formatXYN (op n : BitVec 4) {x y : RegIdx} (h : i.WellFormed)
    (hw : encodeWord i = formatXYN op x y n) :
    DecodesAs (op.toNat * 4096 + n.toNat + x.toNat * 256 + y.toNat * 16) i :=
  decodesAs_of_encodeWord h (by rw [hw, formatXYN_toNat]; omega)

end Numbers

/-! ## SYS and the jumps -/

/-- A write of PC changes PC alone; an advance and a skip are such writes. -/
theorem State.setPC_changesOnly (s : State) (a : Word) : ChangesOnly (fun p => p = .pc) s (s.setPC a) :=
  ChangesOnly.refl.setPC (W := fun p => p = .pc) rfl a

/-- Settles O26: the meaning of SYS is the generic advance alone. -/
theorem sysOnlyAdvances : Obligations.SysOnlyAdvances :=
  fun _ s => ⟨s.advance, rfl, rfl, s.setPC_changesOnly _⟩

/-- Settles O27: a 12-bit address keeps its value in the 16-bit PC. -/
theorem jumpSetsPC : Obligations.JumpSetsPC :=
  fun nnn s => ⟨decodesAs_formatNNN 0x1 rfl rfl, _, rfl, target_toNat nnn, s.setPC_changesOnly _⟩

/-- A 12-bit address plus a byte is below 65536, so the sum does not wrap. -/
theorem State.indexedTarget_toNat (s : State) (nnn : Addr12) :
    (s.indexedTarget nnn).toNat = nnn.toNat + (s.reg 0).toNat := by
  rw [State.indexedTarget, BitVec.toNat_add, target_toNat, BitVec.toNat_setWidth]
  omega

/-- Settles O28: the sum of the address and V[0] fits in PC. -/
theorem indexedJumpAddsRegisterZero : Obligations.IndexedJumpAddsRegisterZero :=
  fun nnn s => ⟨decodesAs_formatNNN 0xB rfl rfl, _, rfl, s.indexedTarget_toNat nnn,
    s.setPC_changesOnly _⟩

/-! ## The skips -/

theorem State.skipIf_eq_pc (s : State) (a b : Byte) :
    (s.skipIf (decide (a = b))).pc = if a.toNat = b.toNat then s.pc + 4 else s.pc + 2 := by
  simp only [State.skipIf_pc, decide_eq_true_eq, BitVec.toNat_inj]

theorem State.skipIf_ne_pc (s : State) (a b : Byte) :
    (s.skipIf (decide (a ≠ b))).pc = if a.toNat = b.toNat then s.pc + 2 else s.pc + 4 := by
  simp only [State.skipIf_pc, decide_eq_true_eq, BitVec.toNat_inj, ite_not]

/-- Settles O29: both forms are a skip on the equality of two bytes. -/
theorem skipIfEqual : Obligations.SkipIfEqual := by
  intro x y kk s
  constructor
  · exact ⟨decodesAs_formatXKK 0x3 rfl rfl, _, rfl, s.skipIf_eq_pc _ _, s.setPC_changesOnly _⟩
  · exact ⟨decodesAs_formatXYN 0x5 0x0 rfl rfl, _, rfl, s.skipIf_eq_pc _ _,
      s.setPC_changesOnly _⟩

/-- Settles O30: both forms are a skip on the difference of two bytes. -/
theorem skipIfNotEqual : Obligations.SkipIfNotEqual := by
  intro x y kk s
  constructor
  · exact ⟨decodesAs_formatXKK 0x4 rfl rfl, _, rfl, s.skipIf_ne_pc _ _, s.setPC_changesOnly _⟩
  · exact ⟨decodesAs_formatXYN 0x9 0x0 rfl rfl, _, rfl, s.skipIf_ne_pc _ _,
      s.setPC_changesOnly _⟩

/-! ## CALL and RET -/

/-- Settles O31: CALL with a slot free is a push of PC + 2 and then a jump (`exec_call`). -/
theorem callPushesAndJumps : Obligations.CallPushesAndJumps := by
  intro nnn s k hk
  have hfree : s.sp.val < 16 := hk ▸ k.isLt
  have hslot : (s.pushed (s.pc + 2) hfree).slot k = s.pc + 2 :=
    (s.slot_pushed _ hfree k).trans (if_pos hk.symm)
  have hframe : ChangesOnly (fun p => p = .pc ∨ p = .sp ∨ p = .slot k) s (s.pushed (s.pc + 2) hfree) :=
    ChangesOnly.pushed hfree (.inr (.inl rfl))
      (fun _ hj => .inr (.inr (congrArg Part.slot (Fin.ext (hj.trans hk))))) _
  exact ⟨decodesAs_formatNNN 0x2 rfl rfl, _, exec_call hfree, hslot, rfl, target_toNat nnn,
    hframe.setPC (.inl rfl) _⟩

/-- Settles O32: RET with a slot in use is a pop and then a jump to the slot's value (`exec_ret`). -/
theorem returnPopsIntoPC : Obligations.ReturnPopsIntoPC :=
  fun _ k hk => ⟨rfl, _, exec_ret hk, rfl, rfl,
    (ChangesOnly.refl.popped (.inr rfl) k).setPC (.inl rfl) _⟩

/-- Settles O34: RET reads the slot that CALL wrote and takes back the one that CALL added to SP; every other
part is kept by both. -/
theorem returnResumesAfterCall : Obligations.ReturnResumesAfterCall := by
  intro nnn s t hfree hx
  obtain ⟨k, hk⟩ : ∃ k : Fin 16, s.sp.val = k.val := ⟨⟨s.sp.val, hfree⟩, rfl⟩
  obtain ⟨-, hcall⟩ := callPushesAndJumps nnn s k hk
  obtain ⟨hslot, hpush, -, hst⟩ := hcall.of_exec hx
  obtain ⟨-, u, hu, hpc, hpop, htu⟩ := returnPopsIntoPC t k (by rw [hpush, hk])
  refine ⟨u, hu, hpc.trans hslot, fun p hp => ?_⟩
  obtain ⟨hnpc, hnslot⟩ := not_or.1 hp
  by_cases hsp : p = .sp
  · subst hsp
    exact Fin.ext (hpop.trans hk.symm)
  · have hnk : p ≠ .slot k := fun e => hnslot ⟨k, e, hk.symm⟩
    have hcallKeeps : p.Kept s t := hst p (by simp [hnpc, hsp, hnk])
    exact hcallKeeps.trans (htu p (by simp [hnpc, hsp]))

end Sys2Proof.Machine

/-!
SUPPORT. The two ways in which the instructions of `42_load_alu.md` end: a byte to V[x], or a result to V[x] and
then a flag to VF, each with the generic advance. Then the statements of that chapter, each instruction by its
byte, or by its result and its flag.
-/

namespace Sys2Proof.Machine

/-! ## The two shapes of a load or arithmetic instruction -/

/-- The result reaches V[x] where the flag does not overwrite it (R161, D10). -/
theorem State.reg_setResultFlag_self (s : State) {x : RegIdx} (h : x ≠ 0xF) (result flag : Byte) :
    (s.setResultFlag x result flag).reg x = result := by
  rw [State.reg_setResultFlag, if_neg h, if_pos rfl]

section Shapes

variable {i : Instr} {s : State} {x : RegIdx} (P : Byte → Prop)

/-- A write of one register and the advance, with what `P` says of the byte written. -/
theorem completes_setReg {b : Byte} (hx : exec i s = .next (s.setReg x b).advance) (hb : P b) :
    Completes i s fun t =>
      P (t.reg x) ∧ t.pc = s.pc + 2 ∧ ChangesOnly (fun p => p = .reg x ∨ p = .pc) s t := by
  have hreg : (s.setReg x b).advance.reg x = b := s.reg_setReg_self x b
  exact ⟨_, hx, hreg.symm ▸ hb, rfl, (ChangesOnly.refl.setReg (.inl rfl) b).advance (.inr rfl)⟩

/-- The result and flag writes and the advance, with what `P` says of the result. -/
theorem completes_setResultFlag {result flag : Byte} {n : Nat}
    (hx : exec i s = .next (s.setResultFlag x result flag).advance) (hresult : P result)
    (hflag : flag.toNat = n) :
    Completes i s fun t =>
      (x ≠ 0xF → P (t.reg x)) ∧ t.vf.toNat = n ∧ t.pc = s.pc + 2 ∧
      ChangesOnly (fun p => p = .reg x ∨ p = .reg 0xF ∨ p = .pc) s t := by
  have hreg (h : x ≠ 0xF) : (s.setResultFlag x result flag).advance.reg x = result :=
    s.reg_setResultFlag_self h result flag
  exact ⟨_, hx, fun h => (hreg h).symm ▸ hresult, State.vf_setResultFlag_toNat hflag, rfl,
    (ChangesOnly.refl.setResultFlag (.inl rfl) (.inr (.inl rfl)) result flag).advance (.inr (.inr rfl))⟩

end Shapes

/-! ## The forms without a flag -/

/-- Settles O35: both loads are one register write. -/
theorem loadsReplaceTheDestination : Obligations.LoadsReplaceTheDestination := by
  intro x y kk s
  constructor
  · exact ⟨decodesAs_formatXKK 0x6 rfl rfl, completes_setReg (· = kk) rfl rfl⟩
  · exact ⟨decodesAs_formatXYN 0x8 0x0 rfl rfl, completes_setReg (· = s.reg y) rfl rfl⟩

/-- Settles O36: a register write of the sum, which wraps as bytes do. -/
theorem addImmediateWrapsWithoutFlag : Obligations.AddImmediateWrapsWithoutFlag :=
  fun x kk s => ⟨decodesAs_formatXKK 0x7 rfl rfl,
    completes_setReg (·.toNat = ((s.reg x).toNat + kk.toNat) % 256) rfl (BitVec.toNat_add ..)⟩

/-- Settles O37: a register write of the bitwise combination, read bit by bit. -/
theorem bitwiseFormsLeaveTheFlag : Obligations.BitwiseFormsLeaveTheFlag := by
  intro x y s
  refine ⟨⟨decodesAs_formatXYN 0x8 0x1 rfl rfl, ?_⟩, ⟨decodesAs_formatXYN 0x8 0x2 rfl rfl, ?_⟩,
    decodesAs_formatXYN 0x8 0x3 rfl rfl, ?_⟩
  · exact completes_setReg (fun b => ∀ j, b.getLsbD j = ((s.reg x).getLsbD j || (s.reg y).getLsbD j))
      rfl fun _ => BitVec.getLsbD_or
  · exact completes_setReg (fun b => ∀ j, b.getLsbD j = ((s.reg x).getLsbD j && (s.reg y).getLsbD j))
      rfl fun _ => BitVec.getLsbD_and
  · exact completes_setReg (fun b => ∀ j, b.getLsbD j = ((s.reg x).getLsbD j ^^ (s.reg y).getLsbD j))
      rfl fun _ => BitVec.getLsbD_xor

/-- Settles O41: a register write of the masked draw, after which the counter moves on. -/
theorem randomLoadMasksTheDraw : Obligations.RandomLoadMasksTheDraw := by
  intro x kk s
  have hreg : (s.randomLoad x kk s.draw).reg x = s.draw &&& kk :=
    (s.reg_randomLoad x x kk s.draw).trans (if_pos rfl)
  have hbits (j : Nat) :
      ((s.randomLoad x kk s.draw).reg x).getLsbD j = (s.draw.getLsbD j && kk.getLsbD j) := by
    rw [hreg, BitVec.getLsbD_and]
  exact ⟨decodesAs_formatXKK 0xC rfl rfl, _, rfl, hbits, rfl, rfl,
    ((ChangesOnly.refl.setReg (.inl rfl) _).advance (.inr (.inl rfl))).nextDraw (.inr (.inr rfl))⟩

/-! ## The forms with a flag -/

/-- Settles O38: the byte sum and its carry. -/
theorem addWritesCarry : Obligations.AddWritesCarry :=
  fun x y s => ⟨decodesAs_formatXYN 0x8 0x4 rfl rfl,
    completes_setResultFlag (·.toNat = ((s.reg x).toNat + (s.reg y).toNat) % 256) rfl
      (BitVec.toNat_add ..) (carryFlag_toNat ..)⟩

/-- The difference of two bytes is the integer difference modulo 256. -/
theorem sub_toNat_eq_emod (a b : Byte) : ((a - b).toNat : Int) = (a.toNat - b.toNat : Int) % 256 := by
  have hb := b.isLt
  rw [BitVec.toNat_sub]
  omega

/-- Settles O39: both forms are a byte difference and its inverted borrow, with the operands the other way
round. -/
theorem subtractionsWriteNotBorrow : Obligations.SubtractionsWriteNotBorrow := by
  intro x y s
  refine ⟨⟨decodesAs_formatXYN 0x8 0x5 rfl rfl, ?_⟩, decodesAs_formatXYN 0x8 0x7 rfl rfl, ?_⟩
  · exact completes_setResultFlag
      (fun b => (b.toNat : Int) = ((s.reg x).toNat - (s.reg y).toNat : Int) % 256) rfl
      (sub_toNat_eq_emod ..) (notBorrowFlag_toNat ..)
  · exact completes_setResultFlag
      (fun b => (b.toNat : Int) = ((s.reg y).toNat - (s.reg x).toNat : Int) % 256) rfl
      (sub_toNat_eq_emod ..) (notBorrowFlag_toNat ..)

theorem ushiftRight_one_toNat (a : Byte) : (a >>> 1).toNat = a.toNat / 2 := by
  rw [BitVec.toNat_ushiftRight, Nat.shiftRight_eq_div_pow, Nat.pow_one]

theorem shiftLeft_one_toNat (a : Byte) : (a <<< 1).toNat = a.toNat * 2 % 256 := by
  rw [BitVec.toNat_shiftLeft, Nat.shiftLeft_eq, Nat.pow_one]

/-- Settles O40: both forms shift V[x] itself, and the flag is the bit that the shift drops. -/
theorem shiftsWriteTheBitShiftedOut : Obligations.ShiftsWriteTheBitShiftedOut := by
  intro x y s
  refine ⟨⟨decodesAs_formatXYN 0x8 0x6 rfl rfl, ?_⟩, decodesAs_formatXYN 0x8 0xE rfl rfl, ?_⟩
  · exact completes_setResultFlag (·.toNat = (s.reg x).toNat / 2) rfl
      (ushiftRight_one_toNat _) (shiftRightFlag_toNat _)
  · exact completes_setResultFlag (·.toNat = (s.reg x).toNat * 2 % 256) rfl
      (shiftLeft_one_toNat _) (shiftLeftFlag_toNat _)

end Sys2Proof.Machine

/-!
SUPPORT. The two ways in which the instructions of `43_index_memory.md` end: a write of I, or a transfer at I,
which is done in full or is an AddressingError with nothing changed (R190). Then the statements of that chapter.
-/

namespace Sys2Proof.Machine

/-! ## The numbers of format XSS, a write of I, and a transfer past the end of memory -/

section Shapes

variable {i : Instr} {s : State}

/-- The sub-selector stands beside the top nibble, as in the statements' constants. -/
theorem decodesAs_formatXSS (op : BitVec 4) (ss : Byte) {x : RegIdx} (h : i.WellFormed)
    (hw : encodeWord i = formatXKK op x ss) :
    DecodesAs (op.toNat * 4096 + ss.toNat + x.toNat * 256) i :=
  decodesAs_of_encodeWord h (by rw [hw, formatXKK_toNat]; omega)

/-- A write of I and the advance. -/
theorem completes_setI {a : Word} {n : Nat} (hx : exec i s = .next (s.setI a).advance)
    (ha : a.toNat = n) :
    Completes i s fun t =>
      t.i.toNat = n ∧ t.pc = s.pc + 2 ∧ ChangesOnly (fun p => p = .index ∨ p = .pc) s t :=
  ⟨_, hx, ha, rfl, (ChangesOnly.refl.setI (.inl rfl) a).advance (.inr rfl)⟩

/-- An access at I that passes the end of memory is an AddressingError, and nothing else changes (R250). -/
theorem exec_takes_addressingError (h : accessFaults s.base (accessLength i)) :
    ∃ t, exec i s = .next t ∧ FaultTaken .addressingError s t :=
  ⟨_, exec_of_executeFault (executeFault_addressingError.2 h), faultTaken_takeFault _ s⟩

end Shapes

/-! ## The index register -/

/-- Settles O42: a 12-bit address keeps its value in the 16-bit I. -/
theorem loadIndexSetsI : Obligations.LoadIndexSetsI :=
  fun nnn _ => ⟨decodesAs_formatNNN 0xA rfl rfl, completes_setI rfl (target_toNat nnn)⟩

/-- The sum is taken modulo 2^16 and not modulo the size of memory (R193). -/
theorem add_setWidth_toNat (a : Word) (b : Byte) :
    (a + b.setWidth 16).toNat = (a.toNat + b.toNat) % 65536 := by
  have hb : (b.setWidth 16).toNat = b.toNat := BitVec.toNat_setWidth_of_le (by decide)
  rw [BitVec.toNat_add, hb]

/-- Five times a byte fits in I, so the product does not wrap (R195). -/
theorem glyphAddress_toNat (a : Byte) : (glyphAddress a).toNat = 5 * a.toNat := by
  have ha := a.isLt
  change (0 + 5 * a.toNat) % 65536 = 5 * a.toNat
  omega

/-- Settles O43: both forms are a write of I. -/
theorem indexArithmetic : Obligations.IndexArithmetic := by
  intro x s
  constructor
  · exact ⟨decodesAs_formatXSS 0xF 0x1E rfl rfl, completes_setI rfl (add_setWidth_toNat _ _)⟩
  · exact ⟨decodesAs_formatXSS 0xF 0x29 rfl rfl, completes_setI rfl (glyphAddress_toNat _)⟩

/-! ## Stores at I -/

/-- Hundreds, tens and ones of a byte at three addresses from `a` (R197). -/
theorem Memory.read_writeBytes_bcdDigits (m : Memory) (a : Nat) (b : Byte) :
    ((m.writeBytes a (bcdDigits b)).read a).toNat = b.toNat / 100 ∧
    ((m.writeBytes a (bcdDigits b)).read (a + 1)).toNat = b.toNat / 10 % 10 ∧
    ((m.writeBytes a (bcdDigits b)).read (a + 2)).toNat = b.toNat % 10 := by
  have hb := b.isLt
  have hdigit (k : Nat) (hk : k < 3) := m.read_writeBytes_getElem a (bcdDigits b) (k := k) hk
  have h0 := hdigit 0 (by decide)
  rw [Nat.add_zero] at h0
  rw [h0, hdigit 1 (by decide), hdigit 2 (by decide)]
  simp only [bcdDigits, List.getElem_cons_zero, List.getElem_cons_succ, BitVec.toNat_ofNat]
  omega

/-- Settles O44: LD B is a block write of the three digits at I and the advance, or the fault. -/
theorem storeDecimalDigits : Obligations.StoreDecimalDigits := by
  intro x s
  refine ⟨decodesAs_formatXSS 0xF 0x33 rfl rfl, fun hfit => ?_,
    fun hout => exec_takes_addressingError ⟨Nat.le_add_left .., hout⟩⟩
  obtain ⟨hhundreds, htens, hones⟩ := s.mem.read_writeBytes_bcdDigits s.base (s.reg x)
  exact ⟨_, exec_ldB (not_accessFaults_iff.2 (.inr hfit)), hhundreds, htens, hones, rfl,
    (ChangesOnly.refl.putBytes fun a hlo hhi => .inr ⟨a, rfl, hlo, hhi⟩).advance (.inl rfl)⟩

/-! ## Transfers of the register block -/

/-- Settles O45: LD [I],Vx is a block write of V[0] to V[x] at I and the advance, or the fault. -/
theorem storeRegisterBlock : Obligations.StoreRegisterBlock := by
  intro x s
  refine ⟨decodesAs_formatXSS 0xF 0x55 rfl rfl, fun hfit => ?_,
    fun hout => exec_takes_addressingError ⟨Nat.le_add_left .., hout⟩⟩
  have hlen : (s.regBlock x).length = x.toNat + 1 := s.regBlock_length x
  exact ⟨_, exec_ldMemVx (not_accessFaults_iff.2 (.inr hfit)),
    fun r hr => s.read_putBytes_regBlock hr, rfl,
    (ChangesOnly.refl.putBytes fun a hlo hhi => .inr ⟨a, rfl, hlo, by omega⟩).advance (.inl rfl)⟩

/-- Loading `x + 1` bytes from address `a` puts the byte at a + r in V[r], for every r up to x (R201). -/
theorem State.reg_loadRegs_readBytes (s : State) (a : Nat) {x r : RegIdx} (h : r.toNat ≤ x.toNat) :
    (s.loadRegs 0 (s.mem.readBytes a (x.toNat + 1))).reg r = s.mem.read (a + r.toNat) := by
  have hlen := s.mem.readBytes_length a (x.toNat + 1)
  have hx : x.toNat < 16 := x.isLt
  rw [State.reg_loadRegs _ _ _ _ (by omega), if_pos (by omega), Nat.sub_zero,
    Memory.readBytes_getD _ _ _ _ (by omega)]

/-- Settles O46: LD Vx,[I] is a load of the block at I into V[0] to V[x] and the advance, or the fault. -/
theorem loadRegisterBlock : Obligations.LoadRegisterBlock := by
  intro x s
  refine ⟨decodesAs_formatXSS 0xF 0x65 rfl rfl, fun hfit => ?_,
    fun hout => exec_takes_addressingError ⟨Nat.le_add_left .., hout⟩⟩
  have hpc : (s.loadRegs 0 (s.mem.readBytes s.base (x.toNat + 1))).advance.pc = s.pc + 2 := by
    rw [State.loadRegs_frame]; rfl
  have hreg (k : Nat) (hk : k < 0 + (s.mem.readBytes s.base (x.toNat + 1)).length) :
      (BitVec.ofNat 4 k).toNat ≤ x.toNat := by
    rw [Memory.readBytes_length] at hk
    have hmod : (BitVec.ofNat 4 k).toNat ≤ k := Nat.mod_le _ _
    omega
  exact ⟨_, exec_ldVxMem (not_accessFaults_iff.2 (.inr hfit)),
    fun r hr => s.reg_loadRegs_readBytes s.base hr, hpc,
    (ChangesOnly.refl.loadRegs fun k _ hk => .inr ⟨_, rfl, hreg k hk⟩).advance (.inl rfl)⟩

end Sys2Proof.Machine

/-!
SUPPORT. The sprite that DRW draws, in terms of the bytes of memory at I: the pixels it toggles and when it
collides. The pixels of the screen as one list. Then the statements of `44_display.md`.
-/

namespace Sys2Proof.Machine

/-! ## CLS and ReadPixels -/

/-- Settles O50: a write of the whole framebuffer and the advance. -/
theorem clearTurnsEveryPixelOff : Obligations.ClearTurnsEveryPixelOff :=
  fun _ => ⟨rfl, _, rfl, Frame.pixel_blank, rfl,
    (ChangesOnly.refl.setFB (fun r c => .inr ⟨r, c, rfl⟩) _).advance (.inl rfl)⟩

theorem State.readPixels_eq_flatten (s : State) : s.readPixels = s.fb.flatten.toList := by
  simp only [State.readPixels, Vector.flatten, Vector.toList, Array.toList_flatten, Array.toList_map,
    List.map_map, List.flatMap_def]
  rfl

theorem State.readPixels_length (s : State) : s.readPixels.length = 2048 := by
  rw [s.readPixels_eq_flatten, Vector.length_toList]

/-- Row r starts at place `r * 64`, since every row has 64 pixels (R221). -/
theorem State.readPixels_getElem? (s : State) (r : Fin 32) (c : Fin 64) :
    s.readPixels[r.val * 64 + c.val]? = some (s.pixel r c) := by
  have hlt : r.val * 64 + c.val < 32 * 64 := by omega
  have hrow : (r.val * 64 + c.val) / 64 = r.val := by omega
  have hcol : (r.val * 64 + c.val) % 64 = c.val := by omega
  rw [s.readPixels_eq_flatten, Vector.getElem?_toList, Vector.getElem?_flatten, dif_pos hlt]
  simp only [hrow, hcol, State.pixel, Frame.pixel]

/-- Settles O59: the rows of the framebuffer one after the other, each of 64 values. -/
theorem readPixelsIsRowMajor : Obligations.ReadPixelsIsRowMajor :=
  fun s => ⟨s.readPixels, rfl, s.readPixels_length, s.readPixels_getElem?⟩

/-! ## The sprite at I -/

section Sprite

variable (s : State) (x y : RegIdx) (n : Height)

/-- The framebuffer and the collision after the drawing of the `n` rows at I, top left at V[x], V[y]. -/
def State.drawn : Frame × Bool := s.drawSprite x y (s.mem.readBytes s.base n.toNat)

/-- A 1 bit of the `n` rows at I falls on row `r`, column `c`, with the top left at V[x], V[y]. -/
def State.underSprite (r : Fin 32) (c : Fin 64) : Prop :=
  spriteBit s (s.reg x).toNat (s.reg y).toNat n.toNat r c

variable {s x y n}

/-- A row of the sprite is the byte of memory at I plus the row's number. -/
theorem rowsHit_readBytes_iff {cx cy k : Nat} {r : Fin 32} {c : Fin 64} :
    rowsHit cx cy (s.mem.readBytes s.base k) r c = true ↔ spriteBit s cx cy k r c := by
  rw [rowsHit_iff, Memory.readBytes_length, spriteBit]
  refine exists_congr fun i => exists_congr fun j => and_congr_right fun hi => ?_
  rw [Memory.readBytes_getD _ _ _ _ hi, State.base]

/-- A sprite has at most 15 rows, so no two of them fall on one row of the screen (R217). -/
theorem State.readBytes_height_le (s : State) (n : Height) :
    (s.mem.readBytes s.base n.toNat).length ≤ 32 := by
  rw [Memory.readBytes_length]; omega

theorem State.pixel_drawn (r : Fin 32) (c : Fin 64) :
    (s.drawn x y n).1.pixel r c = (s.pixel r c ^^
      rowsHit (s.reg x).toNat (s.reg y).toNat (s.mem.readBytes s.base n.toNat) r c) :=
  (drawRows_spec _ _ _ (s.fb, false) (s.readBytes_height_le n)).1 r c

theorem State.pixel_drawn_of_underSprite {r : Fin 32} {c : Fin 64} (h : s.underSprite x y n r c) :
    (s.drawn x y n).1.pixel r c = !s.pixel r c := by
  rw [State.pixel_drawn, rowsHit_readBytes_iff.2 h, Bool.xor_true]

theorem State.pixel_drawn_of_not_underSprite {r : Fin 32} {c : Fin 64}
    (h : ¬ s.underSprite x y n r c) : (s.drawn x y n).1.pixel r c = s.pixel r c := by
  rw [State.pixel_drawn, eq_false_of_ne_true (mt rowsHit_readBytes_iff.1 h), Bool.xor_false]

/-- The collision is about the screen before the drawing, since no pixel is toggled twice (R217). -/
theorem State.drawn_collided_iff :
    (s.drawn x y n).2 = true ↔ ∃ r c, s.underSprite x y n r c ∧ s.pixel r c = true := by
  refine (drawRows_spec _ _ _ (s.fb, false) (s.readBytes_height_le n)).2.trans ?_
  simp only [Bool.false_eq_true, false_or, rowsHit_readBytes_iff]
  rfl

/-- The sprite lies where it lay after a change that keeps its coordinates, I and memory. -/
theorem ChangesOnly.underSprite_iff {t : State} {W : Part → Prop} (h : ChangesOnly W s t)
    (hx : ¬ W (.reg x)) (hy : ¬ W (.reg y)) (hi : ¬ W .index) (hm : ∀ a, ¬ W (.byte a))
    {r : Fin 32} {c : Fin 64} : t.underSprite x y n r c ↔ s.underSprite x y n r c := by
  have hregx : t.reg x = s.reg x := h _ hx
  have hregy : t.reg y = s.reg y := h _ hy
  have hindex : t.i = s.i := h _ hi
  have hmem (a : Nat) : t.mem.read a = s.mem.read a := h _ (hm a)
  simp only [State.underSprite, spriteBit, hregx, hregy, hindex, hmem]

end Sprite

/-! ## DRW -/

theorem State.vf_setVF (s : State) (f : Byte) : (s.setVF f).vf = f := State.reg_setReg_self s 0xF f

/-- Settles O51: the drawing, the flag and the advance, or the fault. -/
theorem drawTogglesTheSpritePixels : Obligations.DrawTogglesTheSpritePixels := by
  intro x y n s
  refine ⟨decodesAs_of_encodeWord rfl ?_, fun hfit => ?_, fun hout => exec_takes_addressingError hout⟩
  · rw [encodeWord, formatXYN_toNat, ← Nat.add_assoc, ← Nat.add_assoc]; rfl
  · refine ⟨_, exec_drw hfit,
      fun r c => ⟨State.pixel_drawn_of_underSprite, State.pixel_drawn_of_not_underSprite⟩,
      fun hon => ?_, fun hoff => ?_, rfl, ?_⟩
    · exact (State.vf_setVF ..).trans (congrArg collisionFlag (State.drawn_collided_iff.2 hon))
    · have hnone : (s.drawn x y n).2 = false := eq_false_of_ne_true fun h => by
        obtain ⟨r, c, hunder, hon⟩ := State.drawn_collided_iff.1 h
        exact Bool.false_ne_true ((hoff r c hunder).symm.trans hon)
      exact (State.vf_setVF ..).trans (congrArg collisionFlag hnone)
    · exact ((ChangesOnly.refl.setFB (fun r c => .inr (.inr ⟨r, c, rfl⟩)) _).setReg
        (.inr (.inl rfl)) _).advance (.inl rfl)

/-- Settles O52: the first DRW keeps the coordinates, I and memory, so the second toggles the same pixels, and
collides where the first turned a pixel on. -/
theorem drawingTwiceRestoresTheScreen : Obligations.DrawingTwiceRestoresTheScreen := by
  intro x y n s t u hx hy hfit hst htu
  obtain ⟨-, hfirst, -⟩ := drawTogglesTheSpritePixels x y n s
  obtain ⟨hpixel, -, -, -, hframe⟩ := (hfirst hfit).of_exec hst
  have hbase : t.i = s.i := hframe .index (by simp)
  obtain ⟨-, hsecond, -⟩ := drawTogglesTheSpritePixels x y n t
  obtain ⟨hpixel', hset, hclear, -⟩ := (hsecond (by rwa [State.base, hbase])).of_exec htu
  have hsame {r : Fin 32} {c : Fin 64} : t.underSprite x y n r c ↔ s.underSprite x y n r c :=
    hframe.underSprite_iff (by simpa using hx) (by simpa using hy) (by simp) (by simp)
  refine ⟨fun r c => ?_, fun hvf => ?_, fun ⟨r, c, hunder, hoff⟩ => hset ⟨r, c, hsame.2 hunder, ?_⟩⟩
  · by_cases hunder : s.underSprite x y n r c
    · rw [(hpixel' r c).1 (hsame.2 hunder), (hpixel r c).1 hunder, Bool.not_not]
    · rw [(hpixel' r c).2 (mt hsame.1 hunder), (hpixel r c).2 hunder]
  · by_contra hnone
    have hvf0 : u.vf = 0 := hclear fun r c hunder => by
      have hon : s.pixel r c = true := eq_true_of_ne_false fun h => hnone ⟨r, c, hsame.1 hunder, h⟩
      rw [(hpixel r c).1 (hsame.1 hunder), hon]; rfl
    exact absurd (hvf.symm.trans hvf0) (by decide)
  · rw [(hpixel r c).1 hunder, hoff]; rfl

end Sys2Proof.Machine

/-!
SUPPORT. The scan of the sixteen key latches, the key that V[x] names, and a step by the answer of its execute
phase. Then the statements of `45_keyboard_timers.md` and of SetKey.
-/

namespace Sys2Proof.Machine

/-! ## The scan of the latches -/

/-- The scan is a search of the key numbers from 0 up. -/
theorem State.anyPressed_eq_some_iff (s : State) (k : KeyIdx) :
    s.anyPressed = some k ↔ s.key k = true ∧ ∀ j : KeyIdx, j.toNat < k.toNat → s.key j = false := by
  rw [State.anyPressed, List.find?_map, Option.map_eq_some_iff]
  constructor
  · rintro ⟨i, hfind, rfl⟩
    obtain ⟨hdown, hi, hlower⟩ := List.find?_range_eq_some.1 hfind
    have htoNat : (BitVec.ofNat 4 i).toNat = i := Nat.mod_eq_of_lt (List.mem_range.1 hi)
    refine ⟨hdown, fun j hj => ?_⟩
    simpa using hlower j.toNat (htoNat ▸ hj)
  · rintro ⟨hdown, hlower⟩
    refine ⟨k.toNat, List.find?_range_eq_some.2 ⟨by simpa using hdown, List.mem_range.2 k.isLt,
      fun i hi => ?_⟩, by simp⟩
    have htoNat : (BitVec.ofNat 4 i).toNat = i := Nat.mod_eq_of_lt (hi.trans k.isLt)
    simpa using hlower (BitVec.ofNat 4 i) (htoNat.symm ▸ hi)

/-- The scan leaves no key number out. -/
theorem State.anyPressed_eq_none_iff (s : State) : s.anyPressed = none ↔ ∀ k, s.key k = false := by
  rw [State.anyPressed, List.find?_eq_none, List.forall_mem_map]
  constructor
  · intro h k
    simpa using h k.toNat (List.mem_range.2 k.isLt)
  · intro h i _
    simp [h]

/-- Settles O54: the scan answers the first pressed key of the numbers in order, and none of them is left
out. -/
theorem keyScanFindsTheLowestPressed : Obligations.KeyScanFindsTheLowestPressed :=
  fun s => ⟨s.anyPressed_eq_some_iff, s.anyPressed_eq_none_iff⟩

/-! ## LD Vx, K -/

/-- A step whose execute phase leaves the machine running ends in the tick of the state that phase answers. -/
theorem step_of_exec {s u : State} {i : Instr} (hr : s.run = .running) (hp : s.pc.toNat + 2 ≤ 4096)
    (hd : decodeWord s.wordAtPC = .ok i) (hx : exec i (s.latch s.wordAtPC) = .next u)
    (hu : u.run = .running) : step s = .next u.tick := by
  simp only [step_fetched hr hp, hd, hx, State.endStep_running hu]

/-- Settles O55: with a key down LD Vx, K is a register write of its number; with none its execute phase is
`State.wait`, and the step is the latch, the wait and the tick. -/
theorem keyWaitRepeatsUntilAKey : Obligations.KeyWaitRepeatsUntilAKey := by
  intro x s
  refine ⟨decodesAs_formatXSS 0xF 0x0A rfl rfl, fun k hdown hlower => ?_, fun hnone => ⟨?_, ?_⟩⟩
  · have hk : s.anyPressed = some k := (s.anyPressed_eq_some_iff k).2 ⟨hdown, hlower⟩
    exact completes_setReg (·.toNat = k.toNat) (exec_ldVxK_some hk)
      (BitVec.toNat_setWidth_of_le (by decide))
  · exact ⟨_, exec_ldVxK_none (s.anyPressed_eq_none_iff.2 hnone), rfl, rfl, ChangesOnly.refl.wait rfl⟩
  · intro hr hp hd
    have hscan : (s.latch s.wordAtPC).anyPressed = none := s.anyPressed_eq_none_iff.2 hnone
    have hlatch : ChangesOnly (fun p => p = .ir ∨ p = .dt ∨ p = .st ∨ p = .result ∨ p = .beep) s
        (s.latch s.wordAtPC) := ChangesOnly.refl.latch (by simp) (by simp) (by simp) _
    exact ⟨_, step_of_exec hr hp hd (exec_ldVxK_none hscan) hr, rfl, countDown_toNat s.dt,
      countDown_toNat s.st, State.tick_beep_iff _,
      (hlatch.wait (by simp)).tick (by simp) (by simp) (by simp)⟩

/-! ## SKP and SKNP -/

/-- The key that V[x] names is the one of its low nibble (D12). -/
theorem State.keyOf_eq {s : State} {x : RegIdx} {k : KeyIdx} (h : k.toNat = (s.reg x).toNat % 16) :
    s.keyOf x = k :=
  BitVec.eq_of_toNat_eq (by rw [State.keyOf, BitVec.extractLsb'_toNat, Nat.shiftRight_zero, h])

/-- Settles O53: both forms are a skip on the latch of the key that V[x] names. -/
theorem keySkipsTestTheLatch : Obligations.KeySkipsTestTheLatch := by
  intro x k s hk
  have hkey : s.keyOf x = k := State.keyOf_eq hk
  refine ⟨⟨decodesAs_formatXSS 0xE 0x9E rfl rfl, _, rfl, ?_, s.setPC_changesOnly _⟩,
    decodesAs_formatXSS 0xE 0xA1 rfl rfl, _, rfl, ?_, s.setPC_changesOnly _⟩
  · rw [hkey, State.skipIf_pc]
  · rw [hkey, State.skipIf_pc]
    cases s.key k <;> rfl

/-! ## The timer transfers -/

/-- Settles O56: one write of V[x], of DT or of ST, and the advance. -/
theorem timerTransfers : Obligations.TimerTransfers := by
  intro x s
  refine ⟨⟨decodesAs_formatXSS 0xF 0x07 rfl rfl, completes_setReg (· = s.dt) rfl rfl⟩,
    ⟨decodesAs_formatXSS 0xF 0x15 rfl rfl, _, rfl, rfl, rfl, ?_⟩,
    decodesAs_formatXSS 0xF 0x18 rfl rfl, _, rfl, rfl, rfl, ?_⟩
  · exact (ChangesOnly.refl.setDT (.inl rfl) _).advance (.inr rfl)
  · exact (ChangesOnly.refl.setST (.inl rfl) _).advance (.inr rfl)

/-! ## SetKey -/

theorem ChangesOnly.setKey {W : Part → Prop} {s t : State} (h : ChangesOnly W s t) {k : KeyIdx}
    (hw : W (.key k)) (b : Bool) : ChangesOnly W s (t.setKey k b) := by
  intro p hp
  cases p with
  | key j =>
    have hne : j ≠ k := fun e => hp (e ▸ hw)
    exact ((t.key_setKey k j b).trans (if_neg hne)).trans (h _ hp)
  | _ => exact h _ hp

/-- Settles O58: the host operation is a write of the latch of key k. -/
theorem setKeyWritesOneLatch : Obligations.SetKeyWritesOneLatch :=
  fun s k b => ⟨s.setKey k b, rfl, (s.key_setKey k k b).trans (if_pos rfl),
    ChangesOnly.refl.setKey (W := fun p => p = .key k) rfl b⟩

end Sys2Proof.Machine

/-!
SUPPORT. The fault table: its condition at each phase of a step, at most one fault of it at a time, and RUN after
a step of a running machine read off it. Then the statements of `60_exceptions.md`.
-/

namespace Sys2Proof.Machine

/-! ## A halted state shows its fault, for ever -/

/-- Settles O18: a step of a halted machine touches none of RUN, PC, IR, I and SP, and each of the three fault
entries leaves what its condition read (`step_keeps_faultExplained`). -/
theorem stepKeepsFaultsExplained : Obligations.StepKeepsFaultsExplained :=
  fun _ _ => step_keeps_faultExplained

/-! ## The fault entry -/

/-- Settles O10: only the three fault entries halt a running machine; the first leaves IR, the other two follow
a fetch that wrote it. -/
theorem faultEntryChangesNothingElse : Obligations.FaultEntryChangesNothingElse := by
  intro s t f hr h ht
  have hlatch {W : Part → Prop} (hir : W .ir) (hfault : ∀ p, faultParts p → W p) :
      ChangesOnly W s (s.latch s.wordAtPC) :=
    ChangesOnly.refl.latch hir (hfault _ (.inr (.inl rfl))) (hfault _ (.inr (.inr rfl))) _
  cases step_ends h with
  | idle hr' => cases hr.symm.trans hr'
  | fetchFault _ _ => cases ht; exact ⟨rfl, rfl, ChangesOnly.refl.takeFault (fun _ => .inl) _⟩
  | unknownWord _ hp _ | executeFault _ hp _ _ =>
    cases ht
    exact ⟨rfl, rfl, (hlatch (.inr ⟨rfl, hp⟩) fun _ => .inl).takeFault (fun _ => .inl) _⟩
  | completed _ _ _ _ _ hu => cases hu.symm.trans ht

/-! ## The fault table, phase by phase -/

section FaultTable

variable {s : State} {f : HaltReason}

theorem stepFault_iff_of_fetchFault (hp : s.pc.toNat + 2 > 4096) :
    stepFault s f ↔ f = .addressingError := by
  rw [stepFault, if_pos hp]

theorem stepFault_iff_of_unknownWord {e : DecodeError} (hp : s.pc.toNat + 2 ≤ 4096)
    (hd : decodeWord s.wordAtPC = .error e) : stepFault s f ↔ f = .unknownOpcode := by
  rw [stepFault, if_neg (Nat.not_lt.2 hp), hd]

theorem stepFault_iff_of_decoded {i : Instr} (hp : s.pc.toNat + 2 ≤ 4096)
    (hd : decodeWord s.wordAtPC = .ok i) : stepFault s f ↔ executeFault s i f := by
  rw [stepFault, if_neg (Nat.not_lt.2 hp), hd]

/-- The execute phase takes the fault whose condition holds, and it answers one state. -/
theorem executeFault_unique {i : Instr} {g : HaltReason} (hf : executeFault s i f)
    (hg : executeFault s i g) : f = g := by
  have hsame : s.takeFault f = s.takeFault g :=
    Host.Outcome.next.inj ((exec_of_executeFault hf).symm.trans (exec_of_executeFault hg))
  exact RunState.halted.inj (congrArg State.run hsame)

/-- A step of a running machine leaves RUN halted for a reason exactly where the table's condition for that
reason holds (R245, R254). -/
theorem step_run_halted_iff {t : State} (hr : s.run = .running) (h : step s = .next t) :
    t.run = .halted f ↔ stepFault s f := by
  cases step_ends h with
  | idle hr' => cases hr.symm.trans hr'
  | fetchFault _ hp =>
    rw [stepFault_iff_of_fetchFault hp, State.takeFault_run, RunState.halted.injEq, eq_comm]
  | unknownWord _ hp hd =>
    rw [stepFault_iff_of_unknownWord hp hd, State.takeFault_run, RunState.halted.injEq, eq_comm]
  | @executeFault i g _ hp hd hg =>
    rw [stepFault_iff_of_decoded hp hd, State.takeFault_run, RunState.halted.injEq]
    exact ⟨fun e => e ▸ hg, executeFault_unique hg⟩
  | completed _ hp hd hn _ hu =>
    rw [stepFault_iff_of_decoded hp hd, State.tick_run, hu]
    exact iff_of_false nofun (hn f)

end FaultTable

theorem RunState.eq_running_iff (r : RunState) : r = .running ↔ ∀ f, r ≠ .halted f := by
  cases r <;> simp

/-- Settles O11: RUN after the step is the table's reason, and the code is RUN's, with no two reasons sharing
one (`State.haltCode_eq_iff`). -/
theorem stepFaultsExactlyAsTheTableSays : Obligations.StepFaultsExactlyAsTheTableSays := by
  intro s hr
  obtain ⟨t, h, -⟩ := step_total s
  have hrun (f : HaltReason) : t.run = .halted f ↔ stepFault s f := step_run_halted_iff hr h
  have hcode (f : HaltReason) : t.haltCode = f.code ↔ stepFault s f :=
    (t.haltCode_eq_iff (.halted f)).trans (hrun f)
  have hnone : t.haltCode = 0 ↔ ∀ f, ¬ stepFault s f :=
    (t.haltCode_eq_iff .running).trans
      (t.run.eq_running_iff.trans (forall_congr' fun f => not_congr (hrun f)))
  exact ⟨t, h, hrun, hnone, hcode .unknownOpcode, hcode .addressingError, hcode .stackOverflow,
    hcode .stackUnderflow⟩

/-! ## The bounds of the stack -/

/-- Settles O33: either bound is the fault condition of its instruction, which the execute phase then takes. -/
theorem stackBoundsAreFaults : Obligations.StackBoundsAreFaults := by
  intro nnn s
  constructor
  · intro hsp
    have hf : executeFault s (.call nnn) .stackOverflow := hsp
    exact ⟨_, exec_of_executeFault hf, faultTaken_takeFault _ s⟩
  · intro hsp
    have hf : executeFault s .ret .stackUnderflow := hsp
    exact ⟨_, exec_of_executeFault hf, faultTaken_takeFault _ s⟩

end Sys2Proof.Machine
